-- ==== Sys2Proof/Word.lean ====
section
/-! DEFINITION. The words of the Huffman codec core: bytes, bit strings, symbols, node indices, and
the constants of rule R5 (00_scope.md). -/

namespace Sys2Proof

/-- A byte of either stream (R60, R61). -/
abbrev Byte := BitVec 8

/-- A bit string, first bit first (R8). -/
abbrev BitString := List Bool

/-- A symbol, 0..256 (R5, R62): 0..255 are byte values, 256 is the end marker. -/
abbrev Sym := Fin 257

/-- A node index, 0..512 (R27, R62). -/
abbrev NodeIx := Fin 513

/-- PSEUDO_EOF, the reserved end-of-block symbol (R5). -/
def pseudoEof : Sym := 256

/-- MAX_DEPTH (R5), which is also the capacity of the traversal stack (R35). -/
def maxDepth : Nat := 256

/-- The table of `n` entries whose entry `i` is `f i`. -/
def table {α : Type} {n : Nat} (f : Fin n → α) : Vector α n :=
  ⟨⟨(List.finRange n).map f⟩, by simp⟩

theorem get_table {α : Type} {n : Nat} (f : Fin n → α) (i : Fin n) : (table f).get i = f i := by
  simp [table, Vector.get]
  rfl

end Sys2Proof
end

