-- ==== Sys2Proof/Config.lean ====
section
/-! DEFINITION. What an implementation fixes (`MAGIC`, `W`: rule R6 of 00_scope.md) and the free
values: what the spec leaves unspecified (R37 of 10_state.md) and what it does not state (R61 of
20_memory.md). A free value has no body, so no proof can see it. -/

namespace Sys2Proof.Config

/-- `MAGIC`, the 32-bit format marker: an open parameter without a value in the spec (R6, R91;
92_eei_decisions.md D1). DESIGN CHOICE, log 1: no body, so it is no value anyone picked. -/
opaque magic : BitVec 32

/-- `W`, the width of every count and weight: the spec's own default (R6; D2). -/
def w : Nat := 32

/-- The places that hold an unspecified value (R37), and the sink's contents where R61 gives none. -/
inductive FreeSlot
  | freq | total | root | cur | intCnt | rdByte
  | nodeKind | nodeValue | nodeWeight | nodeLeft | nodeRight
  | alive | codeLen | codeBits | codeValid | seen
  | sinkLength | sinkByte
deriving DecidableEq, Repr

/-- The free value of the `draw`-th draw, for entry `index` of `slot`. DESIGN CHOICE, log 2 and 6. -/
opaque free (slot : FreeSlot) (draw index : Nat) : Nat

end Sys2Proof.Config
end

