-- ==== Sys2Proof/Syntax.lean ====
section
/-! DEFINITION. The operations of the hardware: one constructor of `Instr` per row of
spec/opcode_table.json (rules R100, R91 to R97, R107 of 30_encoding.md). -/

namespace Sys2Proof

/-- The seven errors (R230 of 60_exceptions.md). -/
inductive ErrKind
  | formatMismatch | truncatedHeader | truncatedStream | malformedHeader
  | countOverflow | noCode | illegalCommand
deriving DecidableEq, Repr, Inhabited

/-- The operations, in the table's order. -/
inductive Instr
  -- Host commands and the status read (47_host_commands.md R220 to R226).
  | nop
  | compress
  | decompress
  | clear
  /-- `c`: a command byte with a 1 in bits 7:2 (R224). -/
  | cmdReserved (c : Byte)
  | statusRead
  -- Bitstream tokens (30_encoding.md R91 to R97).
  | magic (m : BitVec 32)
  | nodeInternal
  /-- `v`: the 9-bit value field; 257..511 are reserved (R93, R102). -/
  | nodeLeaf (v : BitVec 9)
  /-- `path`: 0 to 256 bits, first bit first (R95). -/
  | codeword (path : BitString)
  /-- `p`: the number of pad bits, 0 to 7, each 0 (R97). -/
  | pad (p : Nat)
  -- Bit packer and bit unpacker (40_bitchannel.md).
  | chInit
  | putbit (b : Bool)
  /-- `n`: the width, 1 to 32; `v`: the value, of which the low `n` bits count (R121). -/
  | writebits (n : Nat) (v : BitVec 32)
  | close
  | abort
  | getbit
  /-- `n`: the width, 1 to 32 (R125). -/
  | readbits (n : Nat)
  | rewind
  -- Frequency counter (41_frequency_counter.md).
  | fcClear
  | fcCount
  | fcRun
  -- Tree builder (42_tree_builder.md).
  | tbInit
  | tbMin
  | tbMerge
  | tbBuild
  -- Code-table generator (43_code_table.md R165).
  | ctDerive
  | ctWalk (i : NodeIx) (path : BitString)
  -- Tree serializer and deserializer (44_header_codec.md).
  | hdrSer (i : NodeIx)
  | hdrInit
  | hdrDes
  -- Symbol encoder and decoder step (45_compressor.md R197, R199; 46_decompressor.md R209).
  | encSym (y : Sym)
  | encEof
  | decStep
  -- The fourteen working phases (45_compressor.md R191 to R200; 46_decompressor.md R206 to R211).
  | cCount
  | cBuild
  | cCodes
  | cMagic
  | cHeader
  | cRewind
  | cBody
  | cEof
  | cFlush
  | dMagic
  | dHeader
  | dRootchk
  | dBody
  | dClose
  -- Error entry (60_exceptions.md R236) and hardware reset (70_reset_and_hazards.md R260).
  | raise (e : ErrKind)
  | reset
deriving DecidableEq, Repr, Inhabited

end Sys2Proof
end

