-- ==== Sys2Proof/WellFormed.lean ====
section
/-! DEFINITION. Which operands an operation may carry. Operands whose type already has the rule's
range (a symbol, a node index, an error) need no check. -/

namespace Sys2Proof

/-- The widths WRITEBITS and READBITS accept, 1 to 32 (R67, R121, R125). -/
def widthOk (n : Nat) : Bool := 1 ≤ n && n ≤ 32

/-- A command byte is reserved when a bit of 7:2 is 1 (R100). -/
def isReservedCmd (c : Byte) : Bool := c &&& 0xFC#8 != 0#8

/-- The operand checks, one per operand with a range of its own. -/
def Instr.wf : Instr → Bool
  | .cmdReserved c => isReservedCmd c
  | .codeword path => path.length ≤ maxDepth
  | .pad p => p ≤ 7
  | .writebits n _ => widthOk n
  | .readbits n => widthOk n
  | .ctWalk _ path => path.length ≤ maxDepth
  | .nop | .compress | .decompress | .clear | .statusRead
  | .magic _ | .nodeInternal | .nodeLeaf _
  | .chInit | .putbit _ | .close | .abort | .getbit | .rewind
  | .fcClear | .fcCount | .fcRun | .tbInit | .tbMin | .tbMerge | .tbBuild
  | .ctDerive | .hdrSer _ | .hdrInit | .hdrDes | .encSym _ | .encEof | .decStep
  | .cCount | .cBuild | .cCodes | .cMagic | .cHeader | .cRewind | .cBody | .cEof | .cFlush
  | .dMagic | .dHeader | .dRootchk | .dBody | .dClose | .raise _ | .reset => true

end Sys2Proof
end

