-- ==== Sys2Proof/Decode.lean ====
section
/-! DEFINITION. The decoder and the encoder of the two encoded formats, CMD (rule R100 of
30_encoding.md) and STREAM (R91 to R97). The unit operations and phases have no bit pattern (R107).
What a bit string stands for depends on where the machine meets it (R98), so the decoder takes the
place as an argument, `Format`. -/

namespace Sys2Proof

/-- `bits_n(v)` of R8: the `n` low bits of `v`, most significant first. -/
def bitsOf : Nat → Nat → BitString
  | 0, _ => []
  | n + 1, v => v.testBit n :: bitsOf n v

/-- The numeral of a bit string, first bit most significant (R8). -/
def numeral (b : BitString) : Nat := b.foldl (fun a x => 2 * a + x.toNat) 0

/-- A byte from at most 8 bits, first bit in bit 7, missing bits 0 (R64, R97). -/
def byteOfBits (b : BitString) : Byte := BitVec.ofNat 8 (numeral b * 2 ^ (8 - b.length))

/-- `pack` of R201: zero bits up to a whole byte, then bytes, first bit in bit 7. -/
def packBits (b : BitString) : List Byte :=
  (List.range ((b.length + 7) / 8)).map fun k => byteOfBits ((b.drop (8 * k)).take 8)

/-- The bits of a byte sequence, bit 7 of each byte first (R64). -/
def unpackBytes (l : List Byte) : BitString := l.flatMap fun x => bitsOf 8 x.toNat

/-- Where the machine meets a bit string: at the `CMD` port (R100), where the magic is due (R91),
where a header token is due (R92, R93), in the body (R95), after the terminator (R97). -/
inductive Format
  | cmd | magic | node | codeword | pad
deriving DecidableEq, Repr

/-- Why a bit string is no operation of a format. -/
inductive Reject
  /-- The format's field has another length (R91, R93, R100). -/
  | wrongLength (f : Format)
  /-- A codeword has at most 256 bits (R95). -/
  | codeTooLong
  /-- Pad bits are 0 to 7 zeros (R97). -/
  | notPadding
deriving DecidableEq, Repr

/-- The command byte (R100): bits 7:2 not all zero is reserved, else bits 1:0 choose. -/
def decodeCmd (c : Byte) : Instr :=
  if isReservedCmd c then .cmdReserved c
  else if c = 0x00#8 then .nop
  else if c = 0x01#8 then .compress
  else if c = 0x02#8 then .decompress
  else .clear

/-- A header token (R92, R93). -/
inductive NodeToken
  | internal
  | leaf (v : BitVec 9)
deriving DecidableEq, Repr

/-- How many bits follow the tag bit (R98): 9 for a leaf, none for an internal node. -/
def tokenTail (tag : Bool) : Nat := if tag then 9 else 0

/-- The token with a given tag and the bits after it (R92, R93, R99). -/
def nodeToken (tag : Bool) (tail : BitString) : NodeToken :=
  if tag then .leaf (BitVec.ofNat 9 (numeral tail)) else .internal

def NodeToken.toInstr : NodeToken → Instr
  | .internal => .nodeInternal
  | .leaf v => .nodeLeaf v

/-- The decoder: total on every bit string, rejecting by name. -/
def decode (f : Format) (b : BitString) : Except Reject Instr :=
  match f with
  | .cmd => if b.length = 8 then .ok (decodeCmd (BitVec.ofNat 8 (numeral b))) else .error (.wrongLength .cmd)
  | .magic => if b.length = 32 then .ok (.magic (BitVec.ofNat 32 (numeral b))) else .error (.wrongLength .magic)
  | .node =>
    match b with
    | [] => .error (.wrongLength .node)
    | tag :: tail =>
      if tail.length = tokenTail tag then .ok (nodeToken tag tail).toInstr else .error (.wrongLength .node)
  | .codeword => if b.length ≤ maxDepth then .ok (.codeword b) else .error .codeTooLong
  | .pad => if b.length ≤ 7 ∧ b.all (! ·) then .ok (.pad b.length) else .error .notPadding

/-- The bits of an operation that has any: a command byte (R100), MAGIC (R91), NODE.INTERNAL (R92),
NODE.LEAF (R93), CODEWORD (R95), PAD (R97); none for the rest (R107). -/
def encode : Instr → Option BitString
  | .nop => some (bitsOf 8 0x00)
  | .compress => some (bitsOf 8 0x01)
  | .decompress => some (bitsOf 8 0x02)
  | .clear => some (bitsOf 8 0x03)
  | .cmdReserved c => some (bitsOf 8 c.toNat)
  | .magic m => some (bitsOf 32 m.toNat)
  | .nodeInternal => some [false]
  | .nodeLeaf v => some (true :: bitsOf 9 v.toNat)
  | .codeword path => some path
  | .pad p => some (List.replicate p false)
  | .statusRead
  | .chInit | .putbit _ | .writebits _ _ | .close | .abort | .getbit | .readbits _ | .rewind
  | .fcClear | .fcCount | .fcRun | .tbInit | .tbMin | .tbMerge | .tbBuild
  | .ctDerive | .ctWalk _ _ | .hdrSer _ | .hdrInit | .hdrDes | .encSym _ | .encEof | .decStep
  | .cCount | .cBuild | .cCodes | .cMagic | .cHeader | .cRewind | .cBody | .cEof | .cFlush
  | .dMagic | .dHeader | .dRootchk | .dBody | .dClose | .raise _ | .reset => none

/-- The format an operation is met in, where it has an encoding. -/
def Instr.format : Instr → Option Format
  | .nop | .compress | .decompress | .clear | .cmdReserved _ => some .cmd
  | .magic _ => some .magic
  | .nodeInternal | .nodeLeaf _ => some .node
  | .codeword _ => some .codeword
  | .pad _ => some .pad
  | .statusRead
  | .chInit | .putbit _ | .writebits _ _ | .close | .abort | .getbit | .readbits _ | .rewind
  | .fcClear | .fcCount | .fcRun | .tbInit | .tbMin | .tbMerge | .tbBuild
  | .ctDerive | .ctWalk _ _ | .hdrSer _ | .hdrInit | .hdrDes | .encSym _ | .encEof | .decStep
  | .cCount | .cBuild | .cCodes | .cMagic | .cHeader | .cRewind | .cBody | .cEof | .cFlush
  | .dMagic | .dHeader | .dRootchk | .dBody | .dClose | .raise _ | .reset => none

/-- Which format a word of `nbits` bits belongs to and how many bits its token has, by the rows of
spec/opcode_table.json: 8 a command byte, 1 NODE.INTERNAL, 10 (or 16, whole bytes) NODE.LEAF, 32
MAGIC. DESIGN CHOICE, log 16. -/
def tableFormat : Nat → Option (Format × Nat)
  | 8 => some (.cmd, 8)
  | 1 => some (.node, 1)
  | 10 => some (.node, 10)
  | 16 => some (.node, 10)
  | 32 => some (.magic, 32)
  | _ => none

/-- The operation the decoder reads from a word numbered as the table numbers it, its last bit being
bit 0. -/
def decodeTableWord (nbits w : Nat) : Option Instr :=
  match tableFormat nbits with
  | none => none
  | some (f, n) => if w < 2 ^ n then (decode f (bitsOf n w)).toOption else none

end Sys2Proof
end

