-- ==== Sys2Proof/Machine/State.lean ====
section
/-! DEFINITION. The state of the hardware (10_state.md R20 to R37), its parameters (R36), the two
streams the host owns (20_memory.md R60, R61), and the model's own fields. Plain data. -/

namespace Sys2Proof.Machine

/-- `PHASE` (R21). -/
inductive Phase
  | idle
  | cCount | cBuild | cCodes | cMagic | cHeader | cRewind | cBody | cEof | cFlush
  | dMagic | dHeader | dRootchk | dBody | dClose
  | done | error
deriving DecidableEq, Repr, Inhabited

/-- Where inside the running phase's rule the controller stands: at its start, in its loop (R142,
R177, R210), or, in `C_BODY`, holding the byte just read (R198). The model's own, log 3. -/
inductive Micro
  | start
  | loop
  | encode (v : Byte)
deriving DecidableEq, Repr, Inhabited

/-- `KIND` of a node: 0 = Leaf, 1 = Internal (R27). -/
inductive NodeKind
  | leaf | internal
deriving DecidableEq, Repr, Inhabited

/-- One entry of `NODE` (R27). Counts and weights are W-bit numbers held as `Nat`, log 17. What the rules
write to `VALUE` is 0..256 and to `LEFT` and `RIGHT` 0..512; that an entry nothing has written keeps to these
ranges too is the model's choice, log 20. -/
structure Node where
  kind : NodeKind
  value : Sym
  weight : Nat
  left : NodeIx
  right : NodeIx
deriving DecidableEq, Repr, Inhabited

/-- One entry of `CODE`: `LEN` (0..256) and `BITS` (R30). -/
structure CodeEntry where
  len : Fin 257
  bits : BitVec 256
deriving DecidableEq, Repr, Inhabited

/-- Which child of an Internal node an unfinished HDR.DES is making (R177). -/
inductive Side
  | left | right
deriving DecidableEq, Repr, Inhabited

/-- One entry of the traversal stack: an Internal node on the path from the root to the node being
made, and the child under way (R35). -/
structure Frame where
  node : NodeIx
  side : Side
deriving DecidableEq, Repr, Inhabited

/-- `SNK` (R61). -/
inductive Snk
  | opened | closed | aborted
deriving DecidableEq, Repr, Inhabited

/-- A stream transaction, with the answer of `SrcNext` (R60, R61; `none` is `EOF`). -/
inductive Txn
  | srcNext (r : Option Byte)
  | srcRewind
  | snkPut (b : Byte)
  | snkClose
  | snkAbort
deriving DecidableEq, Repr, Inhabited

/-- The result of the last operation that has one. The model's own, log 7. -/
inductive Ret
  | none
  /-- GETBIT (R124). -/
  | bit (b : Bool)
  /-- READBITS (R125). -/
  | value (v : BitVec 32)
  /-- GETBIT and READBITS at the end of the source (R124, R125). -/
  | eof
  /-- FC.COUNT: `more` (R141). -/
  | more
  /-- FC.COUNT: `end` (R141). -/
  | finished
  /-- TB.MIN and HDR.DES (R151, R177). -/
  | node (i : NodeIx)
  /-- DEC.STEP (R209). -/
  | go
  /-- DEC.STEP: symbol 256 reached (R209). -/
  | stop
  /-- STATUS.READ (R226). -/
  | status (b : Byte)
deriving DecidableEq, Repr, Inhabited

/-- What the host can do between two steps of the controller (R14, R15). log 4. -/
inductive HostEvent
  /-- A write of a byte to `CMD` (R24). -/
  | write (c : Byte)
  /-- A read of `STATUS` (R25, R226). -/
  | readStatus
  /-- The reset input is applied (R260). -/
  | reset
  /-- A source is presented, or the one in use is changed, with its read position (R60, R262, R263). -/
  | source (bytes : List Byte) (pos : Nat)
  /-- A fresh sink is presented: empty and open (R61, R262). -/
  | sink
  /-- The host does nothing; the controller takes a step. -/
  | wait
  /-- The host leaves a transaction unanswered for a turn (R75). -/
  | stall
deriving DecidableEq, Repr, Inhabited

/-- The parameters `MAGIC` and `W` (R6, R36). log 1. -/
structure Params where
  magic : BitVec 32
  w : Nat
deriving DecidableEq, Repr, Inhabited

structure State where
  /-- Parameters (R6, R36): no operation writes them. -/
  par : Params
  /-- `PHASE` (R21). -/
  phase : Phase
  /-- The model's own sequencing inside a phase, log 3. -/
  micro : Micro
  /-- `ERR` (R22). -/
  err : BitVec 3
  /-- `MODE` (R23): 0 compress, 1 decompress. -/
  mode : BitVec 1
  /-- `FREQ` (R26), W-bit counts. -/
  freq : Vector Nat 257
  /-- `TOTAL` (R26). -/
  total : Nat
  /-- `NODE` (R27). -/
  node : Vector Node 513
  /-- `NODE_CNT`, 0..513 (R27). -/
  nodeCnt : Fin 514
  /-- `ROOT` (R27). -/
  root : NodeIx
  /-- `ALIVE` (R29). -/
  alive : Vector Bool 513
  /-- `CODE` (R30). -/
  code : Vector CodeEntry 257
  /-- `CODE_VALID` (R30). -/
  codeValid : Vector Bool 257
  /-- `SEEN` (R31). -/
  seen : Vector Bool 257
  /-- `INT_CNT`, 0..256 (R31). -/
  intCnt : Fin 257
  /-- `CUR` (R32). -/
  cur : NodeIx
  /-- `WR_ACC` (R33). -/
  wrAcc : BitVec 8
  /-- `WR_CNT`, 0..7 (R33). -/
  wrCnt : Fin 8
  /-- `RD_BYTE` (R34). -/
  rdByte : BitVec 8
  /-- `RD_CNT`, 0..8 (R34). -/
  rdCnt : Fin 9
  /-- The traversal stack (R35), top first. -/
  stack : List Frame
  /-- The result of the last operation that has one. The model's own, log 7. -/
  ret : Ret
  /-- The next draw of free values. The model's own, log 2. -/
  fresh : Nat
  /-- The source `S` (R60). -/
  src : List Byte
  /-- The source's read position `pos` (R60). -/
  pos : Nat
  /-- The sink's bytes `OUT` (R61). -/
  out : List Byte
  /-- The sink's state `SNK` (R61). -/
  snk : Snk
  /-- The stream transactions so far, oldest first (R70). The model's own, log 8. -/
  trace : List Txn
  /-- The host's coming actions, next one first. The model's own, log 4. -/
  host : List HostEvent
deriving DecidableEq, Repr

/-- Why the machine stops. No rule of the spec leads to any of these; each is safe: it stops the
model where the spec gives no effect. -/
inductive Fault
  /-- CT.WALK and HDR.SER, and the header tokens: a walk that needs a 257th entry of the traversal
  stack (R35: "at most 256 entries"). Safe, log 11. -/
  | walkTooDeep
  /-- TB.MERGE, HDR.DES and the header tokens: a node beyond `NODE[512]` (R27). Safe, log 12. -/
  | nodeMemoryFull
  /-- TB.MIN, TB.MERGE, TB.BUILD: fewer alive nodes than the rule's precondition (R151, R152). Safe, log 12. -/
  | noAliveNode
  /-- FC.RUN, TB.BUILD, C_BODY, D_BODY: a loop outlives the source or the nodes it consumes. No state
  leads here. Safe, log 12. -/
  | loopUnbounded
deriving DecidableEq, Repr

/-- Why an operation has no meaning. -/
inductive Refusal
  /-- An instruction whose meaning is not written: raised by `exec`'s arms only. Safe. -/
  | notModelled (mnemonic : String)
  /-- WRITEBITS and READBITS with a width outside 1..32 (R121, R125; 93_implementation_defined.md
  U16). Safe, log 13. -/
  | widthOutOfRange (n : Nat)
  /-- CT.WALK with a path longer than the 256 bits of `CODE.BITS` (R165). Safe, log 13. -/
  | pathTooLong (n : Nat)
deriving DecidableEq, Repr

/-- The state after reset with free values of draw `k`: the table of R37. Every entry that R37
calls unspecified is a free value (log 2). DESIGN CHOICE, log 20: the free value of `VALUE` is a symbol, 0..256,
and that of `LEFT` and `RIGHT` a node index, 0..512, although the fields are 9 and 10 bits wide and R37 bounds
their unspecified contents by no more than that. `ROOT`, `CUR`, `INT_CNT` and `LEN` have their ranges from the
spec (R20, R30), a count or weight is below `2 ^ W`. The
streams, the trace and the host's list are the environment's, here with nothing presented (log 5). -/
def State.powerOn (par : Params) (k : Nat) : State where
  par := par
  phase := .idle
  micro := .start
  err := 0
  mode := 0
  freq := table fun i => Config.free .freq k i % 2 ^ par.w
  total := Config.free .total k 0 % 2 ^ par.w
  node := table fun i =>
    { kind := if Config.free .nodeKind k i % 2 = 0 then .leaf else .internal
      value := Fin.ofNat 257 (Config.free .nodeValue k i)
      weight := Config.free .nodeWeight k i % 2 ^ par.w
      left := Fin.ofNat 513 (Config.free .nodeLeft k i)
      right := Fin.ofNat 513 (Config.free .nodeRight k i) }
  nodeCnt := 0
  root := Fin.ofNat 513 (Config.free .root k 0)
  alive := table fun i => Config.free .alive k i % 2 = 1
  code := table fun i =>
    { len := Fin.ofNat 257 (Config.free .codeLen k i)
      bits := BitVec.ofNat 256 (Config.free .codeBits k i) }
  codeValid := table fun i => Config.free .codeValid k i % 2 = 1
  seen := table fun i => Config.free .seen k i % 2 = 1
  intCnt := Fin.ofNat 257 (Config.free .intCnt k 0)
  cur := Fin.ofNat 513 (Config.free .cur k 0)
  wrAcc := 0
  wrCnt := 0
  rdByte := BitVec.ofNat 8 (Config.free .rdByte k 0)
  rdCnt := 0
  stack := []
  ret := .none
  fresh := k + 1
  src := []
  pos := 0
  out := []
  snk := .opened
  trace := []
  host := []

/-- The machine right after reset (R37, R260). -/
def State.reset : State := State.powerOn ⟨Config.magic, Config.w⟩ 0

end Sys2Proof.Machine
end

