-- ==== Sys2Proof/Machine/Operands.lean ====
section
/-! DEFINITION. Operand assembly (rule R99 of 30_encoding.md): how symbols, leaf values, codes and
counts are read from and turned into bits and numbers. All are unsigned (R7). -/

namespace Sys2Proof.Machine

/-- The 8-bit symbol of the uncompressed side: the value is the byte (R99). -/
def symOfByte (v : Byte) : Sym := Fin.ofNat 257 v.toNat

/-- The symbol of a 9-bit leaf value, when it is legal (0..256: R93, R178). -/
def symOfLeaf (v : BitVec 9) : Option Sym :=
  if h : v.toNat < 257 then some ⟨v.toNat, h⟩ else none

/-- The decoded symbol as the byte `VALUE[7:0]` (R99, R209). -/
def byteOfSym (y : Sym) : Byte := BitVec.ofNat 8 y.val

/-- The 9-bit leaf value of a symbol (R93). -/
def leafBits (y : Sym) : BitString := bitsOf 9 y.val

/-- The bits of a code: `BITS[LEN-1]` first down to `BITS[0]` (R99, R197). -/
def codeBits (c : CodeEntry) : BitString := bitsOf c.len.val c.bits.toNat

/-- The table entry of a path: its length, and its numeral widened to 256 bits (R165). -/
def codeOfPath (path : BitString) : CodeEntry :=
  { len := Fin.ofNat 257 path.length, bits := BitVec.ofNat 256 (numeral path) }

/-- A W-bit sum (R143, R155). -/
def addW (s : State) (a b : Nat) : Nat := (a + b) % 2 ^ s.par.w

/-- Bit `i` of a byte set to `b`, the others kept (`WR_ACC[7 - WR_CNT] <- b`, R120). -/
def setBit (acc : Byte) (i : Nat) (b : Bool) : Byte :=
  if b then acc ||| (1#8 <<< i) else acc &&& ~~~(1#8 <<< i)

/-- How many bits the unpacker can still deliver (R34, R60). -/
def bitsLeft (s : State) : Nat := s.rdCnt.val + 8 * (s.src.length - s.pos)

end Sys2Proof.Machine
end

