-- ==== Sys2Proof/Machine/Flags.lean ====
section
/-! DEFINITION. The flags a host can see: the `STATUS` byte (rules R25 of 10_state.md, R101 of
30_encoding.md) and the error codes (R230 of 60_exceptions.md). There are no condition codes. -/

namespace Sys2Proof.Machine

/-- The code of an error in `ERR` (R230). -/
def errCode : ErrKind → BitVec 3
  | .formatMismatch => 1
  | .truncatedHeader => 2
  | .truncatedStream => 3
  | .malformedHeader => 4
  | .countOverflow => 5
  | .noCode => 6
  | .illegalCommand => 7

/-- `STATUS.STATE` (R25): 0 IDLE, 1 BUSY, 2 DONE, 3 ERROR. -/
def stateField : Phase → BitVec 2
  | .idle => 0
  | .done => 2
  | .error => 3
  | .cCount | .cBuild | .cCodes | .cMagic | .cHeader | .cRewind | .cBody | .cEof | .cFlush
  | .dMagic | .dHeader | .dRootchk | .dBody | .dClose => 1

/-- The `STATUS` byte: zero in bits 7:6, `MODE` in bit 5, `ERR` in bits 4:2, `STATE` in bits 1:0 (R101). -/
def statusByte (s : State) : Byte := 0#2 ++ s.mode ++ s.err ++ stateField s.phase

/-- `STATE` = BUSY: one of the 14 working phases (R25, R225). -/
def isBusy (p : Phase) : Bool := stateField p == 1

end Sys2Proof.Machine
end

