-- ==== Sys2Proof/Machine/Ops.lean ====
section
/-! DEFINITION. The operations the meanings share: the stream transactions (20_memory.md R60, R61),
the bit packer and unpacker (40_bitchannel.md), the node memory (10_state.md R27), control transfer
(R21), error entry (60_exceptions.md R236) and the return from it (47_host_commands.md R223). -/

namespace Sys2Proof.Machine

/-! ### How an operation ends -/

/-- The end of an operation: a result and a state; an error taken (R236), with the state after the
entry; or a stop of the model. -/
inductive Res (α : Type)
  | ok (a : α) (s : State)
  | raised (s : State)
  | stop (f : Fault)

/-- Sequencing: an error ends the operation where it stands (R236). -/
def Res.bind {α β : Type} (r : Res α) (f : α → State → Res β) : Res β :=
  match r with
  | .ok a s => f a s
  | .raised s => .raised s
  | .stop e => .stop e

/-- The outcome of an operation whose normal end leaves the state `f a s`. An error's entry is a
next state. -/
def Res.toOutcome {α : Type} (r : Res α) (f : α → State → State) : Host.Outcome State Fault Refusal :=
  match r with
  | .ok a s => .next (f a s)
  | .raised s => .next s
  | .stop e => .fault e

/-! ### Stream transactions (R60, R61) -/

/-- `SrcNext()`: the next byte, or `EOF` (`none`) at the end (R60). -/
def srcNext (s : State) : Option Byte × State :=
  match s.src[s.pos]? with
  | some b => (some b, { s with pos := s.pos + 1, trace := s.trace ++ [.srcNext (some b)] })
  | none => (none, { s with trace := s.trace ++ [.srcNext none] })

/-- `SrcRewind()` (R60). -/
def srcRewind (s : State) : State := { s with pos := 0, trace := s.trace ++ [.srcRewind] }

/-- What a sink that is not open holds after a byte is put: R61 gives `SnkPut` only while OPEN, so
this is a free value. DESIGN CHOICE, log 6. -/
def freeSink (k : Nat) : List Byte :=
  (List.range (Config.free .sinkLength k 0)).map fun i => BitVec.ofNat 8 (Config.free .sinkByte k i)

/-- `SnkPut(b)` (R61): appends while OPEN. -/
def snkPut (b : Byte) (s : State) : State :=
  { s with
    out := if s.snk = .opened then s.out ++ [b] else freeSink s.fresh
    fresh := if s.snk = .opened then s.fresh else s.fresh + 1
    trace := s.trace ++ [.snkPut b] }

/-- `SnkClose()` (R61). -/
def snkClose (s : State) : State := { s with snk := .closed, trace := s.trace ++ [.snkClose] }

/-- `SnkAbort()` (R61): bytes already put stay. -/
def snkAbort (s : State) : State := { s with snk := .aborted, trace := s.trace ++ [.snkAbort] }

/-! ### Bit packer and unpacker -/

/-- CH.INIT (R127). -/
def initChannel (s : State) : State := { s with wrAcc := 0, wrCnt := 0, rdCnt := 0 }

/-- PUTBIT (R120). -/
def putBit (b : Bool) (s : State) : State :=
  let acc := setBit s.wrAcc (7 - s.wrCnt.val) b
  if h : s.wrCnt.val < 7 then { s with wrAcc := acc, wrCnt := ⟨s.wrCnt.val + 1, by omega⟩ }
  else { snkPut acc s with wrAcc := 0, wrCnt := 0 }

/-- PUTBIT of each bit of a string, first bit first. -/
def putBits (l : BitString) (s : State) : State := l.foldl (fun t b => putBit b t) s

/-- WRITEBITS (R121): `PUTBIT v[n-1]` down to `PUTBIT v[0]`. -/
def writeBits (n : Nat) (v : Nat) (s : State) : State := putBits (bitsOf n v) s

/-- CLOSE (R122): a partial byte is flushed, its low bits already 0. -/
def closeOut (s : State) : State :=
  snkClose (if 0 < s.wrCnt.val then { snkPut s.wrAcc s with wrAcc := 0, wrCnt := 0 } else s)

/-- ABORT (R123). -/
def abortOut (s : State) : State := snkAbort { s with wrAcc := 0, wrCnt := 0 }

/-- GETBIT (R124): bit 7 of a byte first; `none` is `EOF`. -/
def getBit (s : State) : Option Bool × State :=
  if h : 0 < s.rdCnt.val then
    (some (s.rdByte.getLsbD (s.rdCnt.val - 1)), { s with rdCnt := ⟨s.rdCnt.val - 1, by omega⟩ })
  else
    match srcNext s with
    | (none, t) => (none, t)
    | (some r, t) => (some (r.getLsbD 7), { t with rdByte := r, rdCnt := 7 })

/-- `n` GETBITs, stopping with `EOF` at the first `EOF` (R105, R125). -/
def getBits : Nat → State → Option BitString × State
  | 0, s => (some [], s)
  | n + 1, s =>
    match getBit s with
    | (none, t) => (none, t)
    | (some b, t) =>
      match getBits n t with
      | (none, u) => (none, u)
      | (some l, u) => (some (b :: l), u)

/-- READBITS (R125): the first bit read ends up in `v[n-1]`. -/
def readBits (n : Nat) (s : State) : Option (BitVec 32) × State :=
  match getBits n s with
  | (none, t) => (none, t)
  | (some l, t) => (some (BitVec.ofNat 32 (numeral l)), t)

/-- REWIND (R126). -/
def rewindIn (s : State) : State := { srcRewind s with rdCnt := 0 }

/-! ### Node memory -/

/-- The node at an index (R27). -/
def nodeAt (s : State) (i : NodeIx) : Node := s.node.get i

/-- A write of one entry of `NODE`. -/
def setNode (i : NodeIx) (x : Node) (s : State) : State := { s with node := s.node.set i.val x i.isLt }

/-- A write of one entry of `ALIVE` (R29). -/
def setAlive (i : NodeIx) (b : Bool) (s : State) : State := { s with alive := s.alive.set i.val b i.isLt }

/-- "New nodes are always written at index `NODE_CNT`, which then goes up by one" (R27). -/
def newNode (x : Node) (s : State) : Res NodeIx :=
  if h : s.nodeCnt.val < 513 then
    .ok ⟨s.nodeCnt.val, h⟩
      { setNode ⟨s.nodeCnt.val, h⟩ x s with nodeCnt := ⟨s.nodeCnt.val + 1, by omega⟩ }
  else .stop .nodeMemoryFull

/-! ### Control transfer, error entry, return -/

/-- `PHASE <- p` (R21): the new phase begins at its start, with no result pending (log 3, log 7). -/
def goto (p : Phase) (s : State) : State := { s with phase := p, micro := .start, ret := .none }

/-- `raise E` (R236): ABORT unless IDLE, `ERR <- code(E)`, `PHASE <- ERROR`. The walk in progress, if
any, is gone (R35: the stack is empty whenever no walk is in progress). -/
def raise (e : ErrKind) (s : State) : State :=
  goto .error { (if s.phase = .idle then s else abortOut s) with err := errCode e, stack := [] }

/-- `all state <- its reset value` (R223, R260): the way out of ERROR and DONE (R242). The streams and
the parameters are not the hardware's and stay (R36, R260). -/
def resetAll (s : State) : State :=
  { State.powerOn s.par s.fresh with
    src := s.src, pos := s.pos, out := s.out, snk := s.snk, trace := s.trace, host := s.host }

end Sys2Proof.Machine
end

