-- ==== Sys2Proof/Machine/BitChannel.lean ====
section
/-! DEFINITION. The bit packer and the bit unpacker (40_bitchannel.md): CH.INIT, PUTBIT, WRITEBITS,
CLOSE, ABORT, GETBIT, READBITS, REWIND. None writes `ERR` or `PHASE`. -/

namespace Sys2Proof.Machine

/-- CH.INIT (R127). -/
def execChInit (s : State) : Host.Outcome State Fault Refusal := .next (initChannel s)

/-- PUTBIT b (R120). -/
def execPutbit (b : Bool) (s : State) : Host.Outcome State Fault Refusal := .next (putBit b s)

/-- WRITEBITS n, v (R121); a width outside 1..32 is refused (93_implementation_defined.md U16, log 13). -/
def execWritebits (n : Nat) (v : BitVec 32) (s : State) : Host.Outcome State Fault Refusal :=
  if widthOk n then .next (writeBits n v.toNat s) else .refused (.widthOutOfRange n)

/-- CLOSE (R122). -/
def execClose (s : State) : Host.Outcome State Fault Refusal := .next (closeOut s)

/-- ABORT (R123). -/
def execAbort (s : State) : Host.Outcome State Fault Refusal := .next (abortOut s)

/-- GETBIT (R124): the bit, or `EOF`, is the result. -/
def execGetbit (s : State) : Host.Outcome State Fault Refusal :=
  match getBit s with
  | (none, t) => .next { t with ret := .eof }
  | (some b, t) => .next { t with ret := .bit b }

/-- READBITS n (R125); a width outside 1..32 is refused (U16, log 13). -/
def execReadbits (n : Nat) (s : State) : Host.Outcome State Fault Refusal :=
  if widthOk n then
    match readBits n s with
    | (none, t) => .next { t with ret := .eof }
    | (some v, t) => .next { t with ret := .value v }
  else .refused (.widthOutOfRange n)

/-- REWIND (R126). -/
def execRewind (s : State) : Host.Outcome State Fault Refusal := .next (rewindIn s)

end Sys2Proof.Machine
end

