-- ==== Sys2Proof/Machine/CodeTable.lean ====
section
/-! DEFINITION. The code-table generator (43_code_table.md): CT.DERIVE and CT.WALK (R165). -/

namespace Sys2Proof.Machine

/-- `CODE[s].LEN`, `CODE[s].BITS` and `CODE_VALID[s]` of the leaf reached by `path` (R165). -/
def recordCode (y : Sym) (path : BitString) (s : State) : State :=
  { s with
    code := s.code.set y.val (codeOfPath path) y.isLt
    codeValid := s.codeValid.set y.val true y.isLt }

/-- CT.WALK(i, path) with `d` free entries of the traversal stack (R165, R35). -/
def walkCodes : Nat → NodeIx → BitString → State → Res Unit
  | d, i, path, s =>
    match (nodeAt s i).kind with
    | .leaf => .ok () (recordCode (nodeAt s i).value path s)
    | .internal =>
      match d with
      | 0 => .stop .walkTooDeep
      | d + 1 =>
        (walkCodes d (nodeAt s i).left (path ++ [false]) s).bind fun _ t =>
          walkCodes d (nodeAt s i).right (path ++ [true]) t

/-- `for s = 0 to 256: CODE_VALID[s] <- 0` (R165). -/
def clearCodes (s : State) : State := { s with codeValid := table fun _ => false }

/-- CT.DERIVE (R165). -/
def deriveCodes (s : State) : Res Unit := walkCodes maxDepth s.root [] (clearCodes s)

/-- CT.DERIVE (R165). -/
def execCtDerive (s : State) : Host.Outcome State Fault Refusal := (deriveCodes s).toOutcome fun _ t => t

/-- CT.WALK i, path (R165): a path of `k` bits is met `k` entries deep. A path over 256 bits fits no
`CODE` entry and is refused (log 13). -/
def execCtWalk (i : NodeIx) (path : BitString) (s : State) : Host.Outcome State Fault Refusal :=
  if path.length ≤ maxDepth then
    (walkCodes (maxDepth - path.length) i path s).toOutcome fun _ t => t
  else .refused (.pathTooLong path.length)

end Sys2Proof.Machine
end

