-- ==== Sys2Proof/Machine/FreqCounter.lean ====
section
/-! DEFINITION. The frequency counter (41_frequency_counter.md): FC.CLEAR, FC.COUNT, FC.RUN. -/

namespace Sys2Proof.Machine

/-- FC.CLEAR (R140). -/
def clearCounts (s : State) : State :=
  { s with freq := table fun i => if i = pseudoEof then 1 else 0, total := 1 }

/-- `FREQ[v] <- FREQ[v] + 1; TOTAL <- TOTAL + 1` (R141). -/
def bumpCount (v : Sym) (s : State) : State :=
  { s with
    freq := s.freq.set v.val (addW s (s.freq.get v) 1) v.isLt
    total := addW s s.total 1 }

/-- FC.COUNT (R141); the result is `true` for `more`, `false` for `end`. The overflow check comes
after the byte is consumed and before any count changes. -/
def countOne (s : State) : Res Bool :=
  match readBits 8 s with
  | (none, t) => .ok false t
  | (some v, t) =>
    if t.total = 2 ^ t.par.w - 1 then .raised (raise .countOverflow t)
    else .ok true (bumpCount (symOfByte (v.setWidth 8)) t)

/-- FC.COUNT until it returns `end` (R142). Each round takes a byte, so the source bounds the fuel. -/
def countLoop : Nat → State → Res Unit
  | 0, _ => .stop .loopUnbounded
  | n + 1, s => (countOne s).bind fun more t => if more then countLoop n t else .ok () t

/-- FC.RUN (R142). -/
def countAll (s : State) : Res Unit := countLoop (s.src.length - s.pos + 2) (clearCounts s)

/-- FC.CLEAR (R140). -/
def execFcClear (s : State) : Host.Outcome State Fault Refusal := .next (clearCounts s)

/-- FC.COUNT (R141). -/
def execFcCount (s : State) : Host.Outcome State Fault Refusal :=
  (countOne s).toOutcome fun more t => { t with ret := if more then .more else .finished }

/-- FC.RUN (R142): the result is the table itself. -/
def execFcRun (s : State) : Host.Outcome State Fault Refusal := (countAll s).toOutcome fun _ t => t

end Sys2Proof.Machine
end

