-- ==== Sys2Proof/Machine/HeaderCodec.lean ====
section
/-! DEFINITION. The tree serializer and the tree deserializer (44_header_codec.md): HDR.SER,
HDR.INIT, HDR.DES. -/

namespace Sys2Proof.Machine

/-- HDR.SER(i) with `d` free entries of the traversal stack (R175, R35). -/
def serialize : Nat → NodeIx → State → Res Unit
  | d, i, s =>
    match (nodeAt s i).kind with
    | .leaf => .ok () (writeBits 9 (nodeAt s i).value.val (putBit true s))
    | .internal =>
      match d with
      | 0 => .stop .walkTooDeep
      | d + 1 =>
        (serialize d (nodeAt s i).left (putBit false s)).bind fun _ t =>
          serialize d (nodeAt s i).right t

/-- HDR.INIT (R183). -/
def initHeader (s : State) : State :=
  { s with nodeCnt := 0, intCnt := 0, seen := table fun _ => false }

/-- The next header token: the tag bit, then as many bits as it calls for (R98, R177); `none` is `EOF`
on the tag or in the value. -/
def fetchNode (s : State) : Option NodeToken × State :=
  match getBit s with
  | (none, t) => (none, t)
  | (some tag, t) =>
    match getBits (tokenTail tag) t with
    | (none, u) => (none, u)
    | (some tail, u) => (some (nodeToken tag tail), u)

/-- The NODE.LEAF arm of HDR.DES (R177): the checks of R178 and R179, in this order, then the node. -/
def makeLeaf (v : BitVec 9) (s : State) : Res NodeIx :=
  match symOfLeaf v with
  | none => .raised (raise .malformedHeader s)
  | some y =>
    if s.seen.get y then .raised (raise .malformedHeader s)
    else
      newNode { kind := .leaf, value := y, weight := 0, left := 0, right := 0 }
        { s with seen := s.seen.set y.val true y.isLt }

/-- The NODE.INTERNAL arm of HDR.DES up to its two calls (R177): the check of R180, then the node. -/
def makeInternal (s : State) : Res NodeIx :=
  if h : s.intCnt.val < 256 then
    newNode { kind := .internal, value := 0, weight := 0, left := 0, right := 0 }
      { s with intCnt := ⟨s.intCnt.val + 1, by omega⟩ }
  else .raised (raise .malformedHeader s)

/-- `NODE[n].LEFT <- l` (R177). -/
def setLeft (n l : NodeIx) (s : State) : State := setNode n { nodeAt s n with left := l } s

/-- `NODE[n].RIGHT <- r` (R177). -/
def setRight (n r : NodeIx) (s : State) : State := setNode n { nodeAt s n with right := r } s

/-- HDR.DES() with `d` free entries of the traversal stack (R177, R35). -/
def deserialize : Nat → State → Res NodeIx
  | d, s =>
    match fetchNode s with
    | (none, t) => .raised (raise .truncatedHeader t)
    | (some (.leaf v), t) => makeLeaf v t
    | (some .internal, t) =>
      (makeInternal t).bind fun n u =>
        match d with
        | 0 => .stop .walkTooDeep
        | d + 1 =>
          (deserialize d u).bind fun l v =>
            (deserialize d (setLeft n l v)).bind fun r w => .ok n (setRight n r w)

/-- The return of a finished subtree `n` to the unfinished calls of the stack (R177): a left child is
linked and its parent goes on to the right one; a right child is linked and its parent is finished
too. With no call left, `n` is the result. -/
def returnNode : NodeIx → List Frame → State → State
  | n, [], s => { s with stack := [], ret := .node n }
  | n, ⟨p, .left⟩ :: rest, s => { setLeft p n s with stack := ⟨p, .right⟩ :: rest, ret := .none }
  | n, ⟨p, .right⟩ :: rest, s => returnNode p rest (setRight p n s)

/-- HDR.SER i (R175). -/
def execHdrSer (i : NodeIx) (s : State) : Host.Outcome State Fault Refusal :=
  (serialize maxDepth i s).toOutcome fun _ t => t

/-- HDR.INIT (R183). -/
def execHdrInit (s : State) : Host.Outcome State Fault Refusal := .next (initHeader s)

/-- HDR.DES (R177): the index of the node made is the result. -/
def execHdrDes (s : State) : Host.Outcome State Fault Refusal :=
  (deserialize maxDepth s).toOutcome fun n t => { t with ret := .node n }

end Sys2Proof.Machine
end

