-- ==== Sys2Proof/Machine/TreeBuilder.lean ====
section
/-! DEFINITION. The tree builder (42_tree_builder.md): TB.INIT, TB.MIN, TB.MERGE, TB.BUILD. -/

namespace Sys2Proof.Machine

/-- The symbols with count > 0, ascending (R150). -/
def usedSyms (s : State) : List Sym := (List.finRange 257).filter fun y => 0 < s.freq.get y

theorem usedSyms_length_le (s : State) : (usedSyms s).length ≤ 257 := by
  simpa [usedSyms] using List.length_filter_le (fun y => decide (0 < s.freq.get y)) (List.finRange 257)

/-- A leaf made by TB.INIT (R150). -/
def countLeaf (s : State) (y : Sym) : Node :=
  { kind := .leaf, value := y, weight := s.freq.get y, left := 0, right := 0 }

/-- TB.INIT (R150): the leaf of the k-th used symbol is written at index k and is alive, and
`NODE_CNT` counts them; entries above keep what they held. -/
def initLeaves (s : State) : State :=
  { s with
    node := table fun i =>
      match (usedSyms s)[i.val]? with
      | some y => countLeaf s y
      | none => s.node.get i
    alive := table fun i => if i.val < (usedSyms s).length then true else s.alive.get i
    nodeCnt := ⟨(usedSyms s).length, by have := usedSyms_length_le s; omega⟩ }

/-- The members of the priority collection (R29): `i < NODE_CNT` with `ALIVE[i] = 1`, ascending. -/
def aliveNodes (s : State) : List NodeIx :=
  (List.finRange 513).filter fun i => i.val < s.nodeCnt.val && s.alive.get i

/-- Of a list of indices in ascending order, the first with the least weight: least (WEIGHT, index). -/
def leastOf (s : State) : List NodeIx → Option NodeIx
  | [] => none
  | i :: l =>
    match leastOf s l with
    | none => some i
    | some j => if (nodeAt s j).weight < (nodeAt s i).weight then some j else some i

/-- TB.MIN (R151). -/
def minNode (s : State) : Option NodeIx := leastOf s (aliveNodes s)

/-- TB.MERGE (R152). Fewer than two nodes alive is outside its precondition (log 12). -/
def mergeTwo (s : State) : Res NodeIx :=
  match minNode s with
  | none => .stop .noAliveNode
  | some a =>
    let t := setAlive a false s
    match minNode t with
    | none => .stop .noAliveNode
    | some b =>
      let u := setAlive b false t
      (newNode { kind := .internal, value := 0
                 weight := addW u (nodeAt u a).weight (nodeAt u b).weight
                 left := a, right := b } u).bind fun n v => .ok n (setAlive n true v)

/-- `while (number of alive nodes) > 1: TB.MERGE` (R153). Each merge lowers the number by one. -/
def mergeLoop : Nat → State → Res Unit
  | 0, _ => .stop .loopUnbounded
  | n + 1, s =>
    if 1 < (aliveNodes s).length then (mergeTwo s).bind fun _ t => mergeLoop n t else .ok () s

/-- TB.BUILD (R153). -/
def buildTree (s : State) : Res Unit :=
  (mergeLoop (usedSyms s).length.succ (initLeaves s)).bind fun _ t =>
    match aliveNodes t with
    | [] => .stop .noAliveNode
    | i :: _ => .ok () { t with root := i }

/-- TB.INIT (R150). -/
def execTbInit (s : State) : Host.Outcome State Fault Refusal := .next (initLeaves s)

/-- TB.MIN (R151): returns the index; nothing is removed (log 9). -/
def execTbMin (s : State) : Host.Outcome State Fault Refusal :=
  match minNode s with
  | none => .fault .noAliveNode
  | some i => .next { s with ret := .node i }

/-- TB.MERGE (R152). -/
def execTbMerge (s : State) : Host.Outcome State Fault Refusal := (mergeTwo s).toOutcome fun _ t => t

/-- TB.BUILD (R153). -/
def execTbBuild (s : State) : Host.Outcome State Fault Refusal := (buildTree s).toOutcome fun _ t => t

end Sys2Proof.Machine
end

