-- ==== Sys2Proof/Machine/Compressor.lean ====
section
/-! DEFINITION. The compressor (45_compressor.md): ENC.SYM, ENC.EOF and the nine compress phases in
the order of R190. -/

namespace Sys2Proof.Machine

/-- ENC.SYM s (R197): the code, bit by bit, or *no-code*. -/
def encodeSym (y : Sym) (s : State) : Res Unit :=
  if s.codeValid.get y then .ok () (putBits (codeBits (s.code.get y)) s)
  else .raised (raise .noCode s)

/-- The loop of C_BODY (R198). Each round takes a byte, so the source bounds the fuel. -/
def encodeLoop : Nat → State → Res Unit
  | 0, _ => .stop .loopUnbounded
  | n + 1, s =>
    match readBits 8 s with
    | (none, t) => .ok () t
    | (some v, t) => (encodeSym (symOfByte (v.setWidth 8)) t).bind fun _ u => encodeLoop n u

/-- ENC.SYM s (R197). -/
def execEncSym (y : Sym) (s : State) : Host.Outcome State Fault Refusal :=
  (encodeSym y s).toOutcome fun _ t => t

/-- ENC.EOF (R199): ENC.SYM 256. -/
def execEncEof (s : State) : Host.Outcome State Fault Refusal :=
  (encodeSym pseudoEof s).toOutcome fun _ t => t

/-- Phase C_COUNT (R191). -/
def execCCount (s : State) : Host.Outcome State Fault Refusal :=
  (countAll s).toOutcome fun _ t => goto .cBuild t

/-- Phase C_BUILD (R192). -/
def execCBuild (s : State) : Host.Outcome State Fault Refusal :=
  (buildTree s).toOutcome fun _ t => goto .cCodes t

/-- Phase C_CODES (R193). -/
def execCCodes (s : State) : Host.Outcome State Fault Refusal :=
  (deriveCodes s).toOutcome fun _ t => goto .cMagic t

/-- Phase C_MAGIC (R194). -/
def execCMagic (s : State) : Host.Outcome State Fault Refusal :=
  .next (goto .cHeader (writeBits 32 s.par.magic.toNat s))

/-- Phase C_HEADER (R195). -/
def execCHeader (s : State) : Host.Outcome State Fault Refusal :=
  (serialize maxDepth s.root s).toOutcome fun _ t => goto .cRewind t

/-- Phase C_REWIND (R196). -/
def execCRewind (s : State) : Host.Outcome State Fault Refusal := .next (goto .cBody (rewindIn s))

/-- Phase C_BODY (R198). -/
def execCBody (s : State) : Host.Outcome State Fault Refusal :=
  (encodeLoop (s.src.length - s.pos + 2) s).toOutcome fun _ t => goto .cEof t

/-- Phase C_EOF (R199): the terminator. -/
def execCEof (s : State) : Host.Outcome State Fault Refusal :=
  (encodeSym pseudoEof s).toOutcome fun _ t => goto .cFlush t

/-- Phase C_FLUSH (R200). -/
def execCFlush (s : State) : Host.Outcome State Fault Refusal := .next (goto .done (closeOut s))

end Sys2Proof.Machine
end

