-- ==== Sys2Proof/Machine/Decompressor.lean ====
section
/-! DEFINITION. The decompressor (46_decompressor.md): DEC.STEP, the five decompress phases in the
order of R205, and the tokens of the bitstream, which are what the decompressor executes
(20_memory.md R73; log 10). -/

namespace Sys2Proof.Machine

/-- DEC.STEP after its bit is read (R209): one edge; at a Leaf, stop on 256 (`true`), else emit the
byte and go back to the root. -/
def decodeEdge (b : Bool) (s : State) : Bool × State :=
  let t := { s with cur := if b then (nodeAt s s.cur).right else (nodeAt s s.cur).left }
  match (nodeAt t t.cur).kind with
  | .internal => (false, t)
  | .leaf =>
    if (nodeAt t t.cur).value = pseudoEof then (true, t)
    else (false, { writeBits 8 (byteOfSym (nodeAt t t.cur).value).toNat t with cur := t.root })

/-- The edges of a bit string, up to a stop (R98: the body is read as a walk; R103: nothing after the
stop is read). -/
def decodePath : BitString → State → Bool × State
  | [], s => (false, s)
  | b :: l, s =>
    match decodeEdge b s with
    | (true, t) => (true, t)
    | (false, t) => decodePath l t

/-- DEC.STEP (R209); the result is `true` for `stop`. -/
def decodeStep (s : State) : Res Bool :=
  match getBit s with
  | (none, t) => .raised (raise .truncatedStream t)
  | (some b, t) => .ok (decodeEdge b t).1 (decodeEdge b t).2

/-- DEC.STEP until it returns `stop` (R210). Each round takes a bit, so the source bounds the fuel. -/
def decodeLoop : Nat → State → Res Unit
  | 0, _ => .stop .loopUnbounded
  | n + 1, s => (decodeStep s).bind fun stop t => if stop then .ok () t else decodeLoop n t

/-- The result of DEC.STEP. -/
def stepRet (stop : Bool) : Ret := if stop then .stop else .go

/-! ### Tokens -/

/-- MAGIC m, read in D_MAGIC (R91, R206). -/
def checkMagic (m : BitVec 32) (s : State) : State :=
  if m = s.par.magic then goto .dHeader s else raise .formatMismatch s

/-- MAGIC (R91, R206). -/
def execMagic (m : BitVec 32) (s : State) : Host.Outcome State Fault Refusal := .next (checkMagic m s)

/-- The node of an internal token becomes the top of the traversal stack, its left subtree under way
(R177, R35). -/
def pushNode (n : NodeIx) (s : State) : Res Unit :=
  if s.stack.length < maxDepth then .ok () { s with stack := ⟨n, .left⟩ :: s.stack, ret := .none }
  else .stop .walkTooDeep

/-- NODE.INTERNAL (R92, R177): the check of R180, the node, and its two subtrees become due. -/
def execNodeInternal (s : State) : Host.Outcome State Fault Refusal :=
  ((makeInternal s).bind pushNode).toOutcome fun _ t => t

/-- NODE.LEAF v (R93, R177): the checks, the node, and its return to the calls that wait for it. -/
def execNodeLeaf (v : BitVec 9) (s : State) : Host.Outcome State Fault Refusal :=
  (makeLeaf v s).toOutcome fun n t => returnNode n t.stack t

/-- CODEWORD (R95, R98): the edges of its path. -/
def execCodeword (path : BitString) (s : State) : Host.Outcome State Fault Refusal :=
  .next { (decodePath path s).2 with ret := stepRet (decodePath path s).1 }

/-- PAD (R97): "never reads padding as padding"; nothing happens (R103). -/
def execPad (_p : Nat) (s : State) : Host.Outcome State Fault Refusal := .next s

/-! ### DEC.STEP and the phases -/

/-- DEC.STEP (R209). -/
def execDecStep (s : State) : Host.Outcome State Fault Refusal :=
  (decodeStep s).toOutcome fun stop t => { t with ret := stepRet stop }

/-- Phase D_MAGIC (R206): the comparison is made on the complete 32-bit value. -/
def execDMagic (s : State) : Host.Outcome State Fault Refusal :=
  match readBits 32 s with
  | (none, t) => .next (raise .formatMismatch t)
  | (some m, t) => .next (checkMagic m t)

/-- Phase D_HEADER (R207). -/
def execDHeader (s : State) : Host.Outcome State Fault Refusal :=
  (deserialize maxDepth (initHeader s)).toOutcome fun n t => goto .dRootchk { t with root := n }

/-- Phase D_ROOTCHK (R208): the value of a root leaf is not examined. -/
def execDRootchk (s : State) : Host.Outcome State Fault Refusal :=
  match (nodeAt s s.root).kind with
  | .leaf => .next (goto .dClose s)
  | .internal => .next (goto .dBody s)

/-- Phase D_BODY (R210). -/
def execDBody (s : State) : Host.Outcome State Fault Refusal :=
  (decodeLoop (bitsLeft s + 1) { s with cur := s.root }).toOutcome fun _ t => goto .dClose t

/-- Phase D_CLOSE (R211). -/
def execDClose (s : State) : Host.Outcome State Fault Refusal := .next (goto .done (closeOut s))

end Sys2Proof.Machine
end

