-- ==== Sys2Proof/Machine/HostCommands.lean ====
section
/-! DEFINITION. The host's commands and its status read (47_host_commands.md), error entry as an
operation (60_exceptions.md R236) and hardware reset (70_reset_and_hazards.md R260). -/

namespace Sys2Proof.Machine

/-- NOP (R220). -/
def execNop (s : State) : Host.Outcome State Fault Refusal := .next s

/-- COMPRESS (R221): from IDLE only; otherwise ignored. -/
def execCompress (s : State) : Host.Outcome State Fault Refusal :=
  if s.phase = .idle then .next (goto .cCount (initChannel { s with mode := 0 })) else .next s

/-- DECOMPRESS (R222): from IDLE only; otherwise ignored. -/
def execDecompress (s : State) : Host.Outcome State Fault Refusal :=
  if s.phase = .idle then .next (goto .dMagic (initChannel { s with mode := 1 })) else .next s

/-- CLEAR (R223): in IDLE, DONE and ERROR; ignored while BUSY. The only return from ERROR (R242). -/
def execClear (s : State) : Host.Outcome State Fault Refusal :=
  if isBusy s.phase then .next s else .next (resetAll s)

/-- A reserved command byte (R224): *illegal-command* in IDLE; otherwise ignored. -/
def execCmdReserved (_c : Byte) (s : State) : Host.Outcome State Fault Refusal :=
  if s.phase = .idle then .next (raise .illegalCommand s) else .next s

/-- STATUS.READ (R226): the byte is the result; no side effect. -/
def execStatusRead (s : State) : Host.Outcome State Fault Refusal :=
  .next { s with ret := .status (statusByte s) }

/-- RAISE E (R236). -/
def execRaise (e : ErrKind) (s : State) : Host.Outcome State Fault Refusal := .next (raise e s)

/-- Hardware reset (R260), at any time; no stream transaction is issued. -/
def execReset (s : State) : Host.Outcome State Fault Refusal := .next (resetAll s)

end Sys2Proof.Machine
end

