-- ==== Sys2Proof/Machine/Dispatch.lean ====
section
/-! DEFINITION. One arm per operation of spec/opcode_table.json, each a call of its meaning. -/

namespace Sys2Proof.Machine

def exec (i : Instr) (s : State) : Host.Outcome State Fault Refusal :=
  match i with
  | .nop => Sys2Proof.Machine.execNop s
  | .compress => Sys2Proof.Machine.execCompress s
  | .decompress => Sys2Proof.Machine.execDecompress s
  | .clear => Sys2Proof.Machine.execClear s
  | .cmdReserved c => Sys2Proof.Machine.execCmdReserved c s
  | .statusRead => Sys2Proof.Machine.execStatusRead s
  | .magic m => Sys2Proof.Machine.execMagic m s
  | .nodeInternal => Sys2Proof.Machine.execNodeInternal s
  | .nodeLeaf v => Sys2Proof.Machine.execNodeLeaf v s
  | .codeword path => Sys2Proof.Machine.execCodeword path s
  | .pad p => Sys2Proof.Machine.execPad p s
  | .chInit => Sys2Proof.Machine.execChInit s
  | .putbit b => Sys2Proof.Machine.execPutbit b s
  | .writebits n v => Sys2Proof.Machine.execWritebits n v s
  | .close => Sys2Proof.Machine.execClose s
  | .abort => Sys2Proof.Machine.execAbort s
  | .getbit => Sys2Proof.Machine.execGetbit s
  | .readbits n => Sys2Proof.Machine.execReadbits n s
  | .rewind => Sys2Proof.Machine.execRewind s
  | .fcClear => Sys2Proof.Machine.execFcClear s
  | .fcCount => Sys2Proof.Machine.execFcCount s
  | .fcRun => Sys2Proof.Machine.execFcRun s
  | .tbInit => Sys2Proof.Machine.execTbInit s
  | .tbMin => Sys2Proof.Machine.execTbMin s
  | .tbMerge => Sys2Proof.Machine.execTbMerge s
  | .tbBuild => Sys2Proof.Machine.execTbBuild s
  | .ctDerive => Sys2Proof.Machine.execCtDerive s
  | .ctWalk n path => Sys2Proof.Machine.execCtWalk n path s
  | .hdrSer n => Sys2Proof.Machine.execHdrSer n s
  | .hdrInit => Sys2Proof.Machine.execHdrInit s
  | .hdrDes => Sys2Proof.Machine.execHdrDes s
  | .encSym y => Sys2Proof.Machine.execEncSym y s
  | .encEof => Sys2Proof.Machine.execEncEof s
  | .decStep => Sys2Proof.Machine.execDecStep s
  | .cCount => Sys2Proof.Machine.execCCount s
  | .cBuild => Sys2Proof.Machine.execCBuild s
  | .cCodes => Sys2Proof.Machine.execCCodes s
  | .cMagic => Sys2Proof.Machine.execCMagic s
  | .cHeader => Sys2Proof.Machine.execCHeader s
  | .cRewind => Sys2Proof.Machine.execCRewind s
  | .cBody => Sys2Proof.Machine.execCBody s
  | .cEof => Sys2Proof.Machine.execCEof s
  | .cFlush => Sys2Proof.Machine.execCFlush s
  | .dMagic => Sys2Proof.Machine.execDMagic s
  | .dHeader => Sys2Proof.Machine.execDHeader s
  | .dRootchk => Sys2Proof.Machine.execDRootchk s
  | .dBody => Sys2Proof.Machine.execDBody s
  | .dClose => Sys2Proof.Machine.execDClose s
  | .raise e => Sys2Proof.Machine.execRaise e s
  | .reset => Sys2Proof.Machine.execReset s

end Sys2Proof.Machine
end

