-- ==== Sys2Proof/Machine/Controller.lean ====
section
/-! DEFINITION. The controller and the host's turn: which operation comes next, how it is fetched, and
the control transfer after it (45_compressor.md R190, 46_decompressor.md R205, 47_host_commands.md
R227). One step is one operation (70_reset_and_hazards.md R271; log 3). -/

namespace Sys2Proof.Machine

/-- What the controller does next: it rests; it performs an operation in a state (after the bits of
the operation, if it comes from the stream, have been read); or the fetch itself met an error. -/
inductive Fetch
  | rest
  | op (i : Instr) (s : State)
  | raised (s : State)

/-- The MAGIC token is due (R91, R206): 32 bits, or *format-mismatch* at the end of the source. -/
def fetchMagic (s : State) : Fetch :=
  match readBits 32 s with
  | (none, t) => .raised (raise .formatMismatch t)
  | (some m, t) => .op (.magic m) t

/-- A header token is due (R92, R93, R177): its bits, or *truncated-header* at the end of the source. -/
def fetchHeader (s : State) : Fetch :=
  match fetchNode s with
  | (none, t) => .raised (raise .truncatedHeader t)
  | (some k, t) => .op k.toInstr t

/-- The next operation of the phase (R190, R205). The phases that are one unit operation are
performed whole; `C_COUNT`, `C_BODY`, `D_HEADER` and `D_BODY` go round their loops (log 3). -/
def fetch (s : State) : Fetch :=
  match s.phase with
  | .idle => .rest
  | .done => .rest
  | .error => .rest
  | .cCount => if s.micro = .start then .op .fcClear s else .op .fcCount s
  | .cBuild => .op .cBuild s
  | .cCodes => .op .cCodes s
  | .cMagic => .op .cMagic s
  | .cHeader => .op .cHeader s
  | .cRewind => .op .cRewind s
  | .cBody =>
    match s.micro with
    | .encode v => .op (.encSym (symOfByte v)) s
    | .start => .op (.readbits 8) s
    | .loop => .op (.readbits 8) s
  | .cEof => .op .cEof s
  | .cFlush => .op .cFlush s
  | .dMagic => fetchMagic s
  | .dHeader => if s.micro = .start then .op .hdrInit s else fetchHeader s
  | .dRootchk => .op .dRootchk s
  | .dBody => if s.micro = .start then .op .decStep { s with cur := s.root, micro := .loop } else .op .decStep s
  | .dClose => .op .dClose s

/-- The control transfer after the operation, `s` being the state before it and `t` after it. The
phases performed whole have made theirs already. -/
def follow (s t : State) : State :=
  match s.phase with
  | .cCount =>
    if s.micro = .start then { t with micro := .loop }
    else if t.ret = .finished then goto .cBuild t else t
  | .cBody =>
    match s.micro with
    | .encode _ => { t with micro := .start }
    | .start | .loop =>
      match t.ret with
      | .eof => goto .cEof t
      | .value v => { t with micro := .encode (v.setWidth 8) }
      | .none | .bit _ | .more | .finished | .node _ | .go | .stop | .status _ => t
  | .dHeader =>
    if s.micro = .start then { t with micro := .loop }
    else
      match t.ret with
      | .node n => goto .dRootchk { t with root := n }
      | .none | .bit _ | .value _ | .eof | .more | .finished | .go | .stop | .status _ => t
  | .dBody => if t.ret = .stop then goto .dClose t else t
  | .idle | .done | .error | .cBuild | .cCodes | .cMagic | .cHeader | .cRewind | .cEof | .cFlush
  | .dMagic | .dRootchk | .dClose => t

/-- The rest of a step after an operation: a control transfer, unless the operation took an error
(R236: `raise` is the last thing the operation does). -/
def after (o : Host.Outcome State Fault Refusal) (f : State → State) : Host.Outcome State Fault Refusal :=
  match o with
  | .next t => if t.phase = .error then .next t else .next (f t)
  | .fault e => .fault e
  | .refused r => .refused r

/-- One step of the controller. In IDLE, DONE and ERROR it waits (R243, R253, R260). -/
def controllerTurn (s : State) : Host.Outcome State Fault Refusal :=
  match fetch s with
  | .rest => .next s
  | .raised t => .next t
  | .op i t => after (exec i t) (follow s)

/-- One action of the host (R14, R15, R262). A command is acted on at once, between two steps of the
controller (47_host_commands.md, opening text). -/
def hostTurn (e : HostEvent) (s : State) : Host.Outcome State Fault Refusal :=
  match e with
  | .write c => exec (decodeCmd c) s
  | .readStatus => exec .statusRead s
  | .reset => exec .reset s
  | .source bytes pos => .next { s with src := bytes, pos := min pos bytes.length }
  | .sink => .next { s with out := [], snk := .opened }
  | .wait => controllerTurn s
  | .stall => .next s

/-- One step: the host's next action if it has one, else a step of the controller. -/
def turn (s : State) : Host.Outcome State Fault Refusal :=
  match s.host with
  | [] => controllerTurn s
  | e :: rest => hostTurn e { s with host := rest }

/-- `s` with a token's bits as its source, about to be read, and the controller's turn next. -/
def withToken (s : State) (p : Phase) (m : Micro) (b : BitString) : State :=
  { s with phase := p, micro := m, src := packBits b, pos := 0, rdCnt := 0, host := .wait :: s.host }

/-- `s` with a word placed where the next step fetches its operation (log 16): a command byte as the
host's next write; a token as the source of the phase that reads it. -/
def placeWord (s : State) (nbits w : Nat) : State :=
  match tableFormat nbits with
  | some (.cmd, _) => { s with host := .write (BitVec.ofNat 8 w) :: s.host }
  | some (.magic, n) => withToken s .dMagic .start (bitsOf n w)
  | some (.node, n) => withToken s .dHeader .loop (bitsOf n w)
  | some (.codeword, _) => s
  | some (.pad, _) => s
  | none => s

end Sys2Proof.Machine
end

