-- ==== Sys2Proof/Machine/Step.lean ====
section
/-! DEFINITION. One step of the machine (70_reset_and_hazards.md R271; log 3, log 4). -/

namespace Sys2Proof.Machine

/-- One step: see `turn`. -/
def step (s : State) : Host.Outcome State Fault Refusal := turn s

/-- `s` with a word stored where `step` fetches its next operation: see `placeWord`. -/
def State.withFetchWord (s : State) (nbits w : Nat) : State := placeWord s nbits w

end Sys2Proof.Machine
end

