-- ==== Sys2Proof/Machine/Tree.lean ====
section
/-! DEFINITION. The abstract tree (00_scope.md R10 to R12), its reading out of the node memory
(10_state.md R28), and the bit strings of a compressed stream as functions of it (44_header_codec.md
R175, 45_compressor.md R201). The meanings do not use these: statements about them do. -/

namespace Sys2Proof.Machine

/-- The abstract tree (R10). Every Internal node has two children by its type. -/
inductive SymbolTree
  | leaf (value : Sym) (weight : Nat)
  | internal (weight : Nat) (left right : SymbolTree)
deriving DecidableEq, Repr, Inhabited

namespace SymbolTree

/-- The leaf values, left to right. -/
def values : SymbolTree → List Sym
  | .leaf v _ => [v]
  | .internal _ l r => l.values ++ r.values

/-- `leaves(T)` (R12). -/
def leaves : SymbolTree → Nat
  | .leaf _ _ => 1
  | .internal _ l r => l.leaves + r.leaves

/-- `internals(T)` (R12). -/
def internals : SymbolTree → Nat
  | .leaf _ _ => 0
  | .internal _ l r => l.internals + r.internals + 1

/-- The number of edges to the deepest leaf. -/
def height : SymbolTree → Nat
  | .leaf _ _ => 0
  | .internal _ l r => max l.height r.height + 1

/-- `code(T, v)` (R12, R166): the path to the leaf `v`, 0 = left, 1 = right. -/
def code : SymbolTree → Sym → Option BitString
  | .leaf v _, y => if v = y then some [] else none
  | .internal _ l r, y =>
    match l.code y with
    | some p => some (false :: p)
    | none => (r.code y).map fun p => true :: p

/-- The bits of the code of `y`, none if `y` is no leaf. -/
def codeBits (t : SymbolTree) (y : Sym) : BitString := (t.code y).getD []

/-- `ser(T)` (R175). -/
def ser : SymbolTree → BitString
  | .leaf v _ => true :: leafBits v
  | .internal _ l r => false :: (l.ser ++ r.ser)

/-- The tree with every weight 0: what a deserialized tree keeps (R177, R182). -/
def unweighted : SymbolTree → SymbolTree
  | .leaf v _ => .leaf v 0
  | .internal _ l r => .internal 0 l.unweighted r.unweighted

/-- The weight of the root node. -/
def weight : SymbolTree → Nat
  | .leaf _ w => w
  | .internal w _ _ => w

/-- Every Internal weight is the sum of its children's (R10). -/
def weightsAdd : SymbolTree → Prop
  | .leaf _ _ => True
  | .internal w l r => w = l.weight + r.weight ∧ l.weightsAdd ∧ r.weightsAdd

/-- No leaf value twice (R11). -/
def distinct (t : SymbolTree) : Prop := t.values.Nodup

/-- Validity (R11). -/
def valid (t : SymbolTree) : Prop := t.distinct ∧ pseudoEof ∈ t.values

end SymbolTree

/-- `tree(i)` (R28), for a tree of height at most `d`; `none` where the entries do not make one. -/
def treeAt (s : State) : Nat → NodeIx → Option SymbolTree
  | d, i =>
    if i.val < s.nodeCnt.val then
      match (nodeAt s i).kind with
      | .leaf => some (.leaf (nodeAt s i).value (nodeAt s i).weight)
      | .internal =>
        match d with
        | 0 => none
        | d + 1 =>
          match treeAt s d (nodeAt s i).left, treeAt s d (nodeAt s i).right with
          | some l, some r => some (.internal (nodeAt s i).weight l r)
          | _, _ => none
    else none

/-- The tree of the operation, `tree(ROOT)` (R28); its height is at most 256 (R156, R180). -/
def State.tree (s : State) : Option SymbolTree := treeAt s maxDepth s.root

/-- The bits of the stream that `S` is compressed to, before padding (R90, R201). -/
def streamBits (magic : BitVec 32) (t : SymbolTree) (bytes : List Byte) : BitString :=
  bitsOf 32 magic.toNat ++ t.ser ++ (bytes.flatMap fun b => t.codeBits (symOfByte b)) ++ t.codeBits pseudoEof

/-- The bits the packer holds (R33): the first written in bit 7. -/
def pending (s : State) : BitString := (bitsOf 8 s.wrAcc.toNat).take s.wrCnt.val

/-- The bits the unpacker can still deliver, in order (R34, R60). -/
def remaining (s : State) : BitString :=
  (bitsOf 8 s.rdByte.toNat).drop (8 - s.rdCnt.val) ++ unpackBytes (s.src.drop s.pos)

/-- How many of the transactions of a trace put a byte. -/
def putsIn (l : List Txn) : Nat := l.countP fun x => match x with | .snkPut _ => true | _ => false

/-- How many of the transactions of a trace ask the source for a byte. -/
def nextsIn (l : List Txn) : Nat := l.countP fun x => match x with | .srcNext _ => true | _ => false

end Sys2Proof.Machine
end

