-- ==== Sys2Proof/Safety.lean ====
section
/-! DEFINITION. What holds in every state of a run, in the terms statements use: the register
invariants (R22, R23, R33, R35, R60, R143), what a phase may rely on (R38, R158, R181), the
transition graph (R227) and the cause table of the errors (R230). -/

namespace Sys2Proof.Machine

/-- The low `8 - WR_CNT` bits of `WR_ACC` are 0 (R33). -/
def PackerClean (s : State) : Prop := ∀ k, k < 8 - s.wrCnt.val → s.wrAcc.getLsbD k = false

/-- Counts and weights fit in W bits (R143, R155), and W is a width. -/
def CountsFit (s : State) : Prop :=
  1 ≤ s.par.w ∧ s.total < 2 ^ s.par.w ∧ (∀ y, s.freq.get y < 2 ^ s.par.w) ∧
    ∀ i, (nodeAt s i).weight < 2 ^ s.par.w

/-- `ERR` is 0 exactly outside ERROR (R22). -/
def ErrAgrees (s : State) : Prop := s.err = 0 ↔ s.phase ≠ .error

/-- Which `MODE` a phase goes with (R23, R221, R222), and in ERROR which `MODE` a code goes with (R230). -/
def ModeAgrees (s : State) : Prop :=
  match s.phase with
  | .idle | .cCount | .cBuild | .cCodes | .cMagic | .cHeader | .cRewind | .cBody | .cEof | .cFlush => s.mode = 0
  | .dMagic | .dHeader | .dRootchk | .dBody | .dClose => s.mode = 1
  | .done => True
  | .error => if s.err.toNat ≤ 4 then s.mode = 1 else s.mode = 0

/-- The traversal stack is empty when no walk is in progress, and has at most 256 entries (R35). -/
def StackAgrees (s : State) : Prop :=
  (s.stack ≠ [] → s.phase = .dHeader ∧ s.micro ≠ .start) ∧ s.stack.length ≤ maxDepth

/-- The register invariants, over every state of a run. -/
def State.Inv (s : State) : Prop :=
  PackerClean s ∧ CountsFit s ∧ ErrAgrees s ∧ ModeAgrees s ∧ StackAgrees s ∧ s.pos ≤ s.src.length

/-- The sum of all counts (R26). -/
def countSum (s : State) : Nat := ((List.finRange 257).map fun y => s.freq.get y).sum

/-- While the counts are in use, `FREQ[256]` is 1 and `TOTAL` is the sum of the counts (R26, R143). -/
def CountsAgree (s : State) : Prop :=
  s.phase = .cCount ∧ s.micro ≠ .start ∨ s.phase = .cBuild → s.freq.get pseudoEof = 1 ∧ s.total = countSum s

/-- From the end of `C_BUILD` to the header the tree is there and valid (R158). -/
def TreeReady (s : State) : Prop :=
  s.phase = .cCodes ∨ s.phase = .cMagic ∨ s.phase = .cHeader → ∃ t, s.tree = some t ∧ t.valid

/-- From the end of `C_CODES` the end marker has a code (R199). -/
def EofCoded (s : State) : Prop :=
  s.phase = .cMagic ∨ s.phase = .cHeader ∨ s.phase = .cRewind ∨ s.phase = .cBody ∨ s.phase = .cEof →
    s.codeValid.get pseudoEof = true

/-- How many subtrees an unfinished Internal node owes beside the one under way: its right one while the left
one is made. -/
def dueBelow (f : Frame) : Nat := match f.side with | .left => 1 | .right => 0

/-- How many subtrees the header still owes: the one under way (at first the whole tree), and those the
unfinished nodes owe (R94, R180). -/
def subtreesDue (l : List Frame) : Nat := 1 + (l.map dueBelow).sum

/-- While a header is read: each Internal node opens two places and the root one (R180), and the
stack has one entry per Internal node on the path (R35). -/
def HeaderAccount (s : State) : Prop :=
  s.phase = .dHeader ∧ s.micro ≠ .start →
    s.nodeCnt.val + subtreesDue s.stack = 2 * s.intCnt.val + 1 ∧ s.stack.length ≤ s.intCnt.val

/-- What every state of a run has: the register invariants and what each phase relies on. -/
def State.Live (s : State) : Prop :=
  s.Inv ∧ CountsAgree s ∧ TreeReady s ∧ EofCoded s ∧ HeaderAccount s

/-- The arrows of R227 that the controller takes. -/
def controllerArrow : Phase → Phase → Bool
  | .cCount, .cBuild | .cBuild, .cCodes | .cCodes, .cMagic | .cMagic, .cHeader | .cHeader, .cRewind
  | .cRewind, .cBody | .cBody, .cEof | .cEof, .cFlush | .cFlush, .done => true
  | .cCount, .error | .cBody, .error => true
  | .dMagic, .dHeader | .dHeader, .dRootchk | .dMagic, .error | .dHeader, .error => true
  | .dRootchk, .dClose | .dRootchk, .dBody | .dBody, .dClose | .dBody, .error | .dClose, .done => true
  | _, _ => false

/-- The arrows of R227 that a command byte takes. -/
def commandArrow (c : Byte) : Phase → Phase → Bool
  | .idle, .cCount => c == 0x01#8
  | .idle, .dMagic => c == 0x02#8
  | .idle, .error => isReservedCmd c
  | .done, .idle | .error, .idle => c == 0x03#8
  | _, _ => false

/-- Which error a phase can raise (R230). -/
def errorFrom : Phase → BitVec 3 → Bool
  | .dMagic, e => e == 1
  | .dHeader, e => e == 2 || e == 4
  | .dBody, e => e == 3
  | .cCount, e => e == 5
  | .cBody, e => e == 6
  | .idle, e => e == 7
  | _, _ => false

/-- Operations one after the other, each in the state the one before it left; a stop ends the sequence. -/
def execSeq : List Instr → State → Host.Outcome State Fault Refusal
  | [], s => .next s
  | i :: l, s =>
    match exec i s with
    | .next t => execSeq l t
    | .fault e => .fault e
    | .refused r => .refused r

/-- `k` steps of the machine. -/
def runSteps (k : Nat) (s : State) : Host.Outcome State Fault Refusal := Host.Core.run core k s

end Sys2Proof.Machine
end

