-- ==== Sys2Proof/Certificates/Slice0/Obligations.lean ====
section
/-! DEFINITION. The statements for the provers. Each docstring names the rule of spec/ it formalises; a
clause that rests on a choice of the model names its log entry. -/

open Sys2Proof Sys2Proof.Machine

/-! ### Encoding -/

/-- R91, R92, R93, R95, R97, R100: decoding the bits of a well-formed operation, in the format it is met
in, gives it back, at every value of its operand. -/
def Obligations.DecodeOfEncode : Prop :=
  ∀ (i : Instr) (f : Format) (b : BitString),
    i.wf = true → i.format = some f → encode i = some b → decode f b = .ok i

/-- R91, R92, R93, R95, R97, R100: what the decoder accepts is exactly the bits of the well-formed
operation it answers, so no two bit strings of a format stand for one operation. -/
def Obligations.EncodeOfDecode : Prop :=
  ∀ (f : Format) (b : BitString) (i : Instr),
    decode f b = .ok i → i.wf = true ∧ i.format = some f ∧ encode i = some b

/-- R100, R92, R93: a command byte with a 1 in bits 7:2, and no other, decodes to a reserved command, and bits
1:0 choose among the four commands; header tokens written out bit by bit decode to what they stand for. -/
def Obligations.SpecWordsDecode : Prop :=
  (∀ c : Byte,
    (c.extractLsb' 2 6 ≠ 0#6 → decodeCmd c = .cmdReserved c) ∧
    (c.extractLsb' 2 6 = 0#6 →
      (c.extractLsb' 0 2 = 0#2 → decodeCmd c = .nop) ∧ (c.extractLsb' 0 2 = 1#2 → decodeCmd c = .compress) ∧
      (c.extractLsb' 0 2 = 2#2 → decodeCmd c = .decompress) ∧ (c.extractLsb' 0 2 = 3#2 → decodeCmd c = .clear))) ∧
  decode .node [false] = .ok .nodeInternal ∧
  decode .node [true, true, false, false, false, false, false, false, false, false] = .ok (.nodeLeaf 256#9) ∧
  decode .node [true, false, false, true, true, false, false, false, true, true] = .ok (.nodeLeaf 99#9)

/-! ### A step runs the operation it fetches (log 3, log 4, log 16) -/

/-- R24, R25, R260, R60, R61, R75, R262: the host's next action is the step: a command byte runs what it
decodes to, a status read and a reset run theirs; a source is presented with a position that stays within its
length; a fresh sink is empty and open; an unanswered turn does nothing. -/
def Obligations.StepRunsHostAction : Prop :=
  ∀ (s : State) (rest : List HostEvent),
    (∀ c i, s.host = .write c :: rest → decode .cmd (bitsOf 8 c.toNat) = .ok i →
      step s = exec i { s with host := rest }) ∧
    (s.host = .readStatus :: rest → step s = exec .statusRead { s with host := rest }) ∧
    (s.host = .reset :: rest → step s = exec .reset { s with host := rest }) ∧
    (∀ bytes pos, s.host = .source bytes pos :: rest → ∃ t, step s = .next t ∧
      t = { s with host := rest, src := bytes, pos := t.pos } ∧ t.pos ≤ bytes.length ∧
      (pos ≤ bytes.length → t.pos = pos) ∧ (bytes.length ≤ pos → t.pos = bytes.length)) ∧
    (s.host = .sink :: rest → step s = .next { s with host := rest, out := [], snk := .opened }) ∧
    (s.host = .stall :: rest → step s = .next { s with host := rest })

/-- R190, R205, R271: with no host action pending, or when the host's turn is to wait, a step runs the operation
the phase comes to, and after it makes the phase's control transfer, unless the operation took an error; in
IDLE, DONE and ERROR it waits. -/
def Obligations.StepRunsFetchedOperation : Prop :=
  ∀ (s t : State) (i : Instr),
    (s.host = [] → fetch s = .op i t → step s = after (exec i t) (follow s)) ∧
    (s.host = [] → s.phase = .idle ∨ s.phase = .done ∨ s.phase = .error → step s = .next s) ∧
    (∀ rest, s.host = .wait :: rest → fetch { s with host := rest } = .op i t →
      step s = after (exec i t) (follow { s with host := rest }))

/-- R91, R92, R93, R95, R98, R206, R177: when the bits at the unpacker's position decode to a token, a step of
the phase that reads it runs that token in the state after the bits are read; when the source ends inside the
marker the step takes format-mismatch, inside a header token truncated-header. -/
def Obligations.StepRunsDecodedToken : Prop :=
  ∀ (s t u : State) (i : Instr) (l : BitString) (b : Bool),
    s.host = [] →
    (s.phase = .dMagic → getBits 32 s = (some l, t) → decode .magic l = .ok i →
      step s = after (exec i t) (follow s)) ∧
    (s.phase = .dMagic → getBits 32 s = (none, t) → step s = .next (raise .formatMismatch t)) ∧
    (s.phase = .dHeader → s.micro ≠ .start → getBit s = (some b, t) → getBits (tokenTail b) t = (some l, u) →
      decode .node (b :: l) = .ok i → step s = after (exec i u) (follow s)) ∧
    (s.phase = .dHeader → s.micro ≠ .start → getBit s = (none, t) → step s = .next (raise .truncatedHeader t)) ∧
    (s.phase = .dHeader → s.micro ≠ .start → getBit s = (some b, t) → getBits (tokenTail b) t = (none, u) →
      step s = .next (raise .truncatedHeader u)) ∧
    (s.phase = .dBody → s.micro ≠ .start → getBit s = (some b, t) → decode .codeword [b] = .ok i →
      step s = after (exec i t) (follow s))

/-! ### Host commands and status -/

/-- R220, R224, R225: NOP changes nothing in any state; while BUSY no command byte has any effect; a reserved
byte in IDLE takes illegal-command (ERR 7, PHASE ERROR, MODE kept, no transaction; the model's own sequencing
fields are cleared, log 15) and is ignored elsewhere. -/
def Obligations.CommandsByState : Prop :=
  ∀ (s : State) (c : Byte),
    exec .nop s = .next s ∧
    (isBusy s.phase = true → exec (decodeCmd c) s = .next s) ∧
    (isBusy s.phase = true → ∀ rest, s.host = .write c :: rest → step s = .next { s with host := rest }) ∧
    (isReservedCmd c = true → decodeCmd c = .cmdReserved c ∧
      (s.phase = .idle → exec (.cmdReserved c) s = .next { s with
        err := 7, phase := .error, micro := .start, ret := .none, stack := [] }) ∧
      (s.phase ≠ .idle → exec (.cmdReserved c) s = .next s))

/-- R221, R222: COMPRESS and DECOMPRESS start an operation from IDLE (MODE, CH.INIT, PHASE) and are
ignored in every other state. The phase begins with no result pending (log 3, log 7). -/
def Obligations.OperationStart : Prop :=
  ∀ s : State,
    (s.phase = .idle → exec .compress s = .next { s with
      mode := 0, wrAcc := 0, wrCnt := 0, rdCnt := 0, phase := .cCount, micro := .start, ret := .none }) ∧
    (s.phase = .idle → exec .decompress s = .next { s with
      mode := 1, wrAcc := 0, wrCnt := 0, rdCnt := 0, phase := .dMagic, micro := .start, ret := .none }) ∧
    (s.phase ≠ .idle → exec .compress s = .next s ∧ exec .decompress s = .next s)

/-- R223, R242: CLEAR leaves DONE and ERROR, and IDLE, for IDLE with every value of the table of R37; it
touches neither stream; while BUSY it does nothing. -/
def Obligations.ClearReturnsToIdle : Prop :=
  ∀ s : State,
    (s.phase = .idle ∨ s.phase = .done ∨ s.phase = .error → ∃ t, exec .clear s = .next t ∧
      t.phase = .idle ∧ t.err = 0 ∧ t.mode = 0 ∧ t.wrAcc = 0 ∧ t.wrCnt = 0 ∧ t.rdCnt = 0 ∧ t.nodeCnt = 0 ∧
      t.stack = [] ∧ statusByte t = 0x00#8 ∧
      t.src = s.src ∧ t.pos = s.pos ∧ t.out = s.out ∧ t.snk = s.snk ∧ t.trace = s.trace ∧ t.host = s.host ∧
      t.par = s.par) ∧
    (isBusy s.phase = true → exec .clear s = .next s)

/-- R25, R226, R101: the status read returns the byte with STATE in bits 1:0 (0 IDLE, 2 DONE, 3 ERROR, 1 the 14
other phases), ERR in bits 4:2, MODE in bit 5 and zero in bits 7:6, and changes nothing else; in every state
that meets the register invariants it is one of the listed bytes. -/
def Obligations.StatusReadReturnsTheView : Prop :=
  ∀ s : State,
    exec .statusRead s = .next { s with ret := .status (statusByte s) } ∧
    (statusByte s).extractLsb' 2 3 = s.err ∧ (statusByte s).extractLsb' 5 1 = s.mode ∧
    (statusByte s).extractLsb' 6 2 = 0#2 ∧
    (statusByte s).extractLsb' 0 2 =
      (if s.phase = .idle then 0#2 else if s.phase = .done then 2#2 else if s.phase = .error then 3#2 else 1#2) ∧
    (s.Inv → statusByte s ∈
      [0x00#8, 0x01#8, 0x21#8, 0x02#8, 0x22#8, 0x27#8, 0x2B#8, 0x2F#8, 0x33#8, 0x17#8, 0x1B#8, 0x1F#8])

/-! ### Errors and reset -/

/-- R236: error entry aborts the output unless the phase is IDLE, records the code and goes to ERROR;
nothing else is saved or changed (the model's own sequencing fields are cleared, log 15). -/
def Obligations.ErrorEntry : Prop :=
  ∀ (s : State) (e : ErrKind),
    (s.phase ≠ .idle → exec (.raise e) s = .next { s with
      wrAcc := 0, wrCnt := 0, snk := .aborted, trace := s.trace ++ [.snkAbort],
      err := errCode e, phase := .error, micro := .start, ret := .none, stack := [] }) ∧
    (s.phase = .idle → exec (.raise e) s = .next { s with
      err := errCode e, phase := .error, micro := .start, ret := .none, stack := [] })

/-- R243: in ERROR the controller performs no step, and every command byte but CLEAR's is ignored: nothing
changes, the streams and their transactions included. Of the host's other actions (log 4), a source changes only
the source, a sink only the sink, a status read only the result field (log 7). -/
def Obligations.ErrorIsSticky : Prop :=
  ∀ (s : State) (rest : List HostEvent), s.phase = .error →
    (s.host = [] → step s = .next s) ∧
    (∀ c, c ≠ 0x03#8 → s.host = .write c :: rest → step s = .next { s with host := rest }) ∧
    (s.host = .wait :: rest ∨ s.host = .stall :: rest → step s = .next { s with host := rest }) ∧
    (∀ bytes pos, s.host = .source bytes pos :: rest → ∃ p, step s = .next { s with
      host := rest, src := bytes, pos := p }) ∧
    (s.host = .sink :: rest → step s = .next { s with host := rest, out := [], snk := .opened }) ∧
    (s.host = .readStatus :: rest → step s = .next { s with host := rest, ret := .status (statusByte s) })

/-- R260, R37: reset at any time gives the values of the table and issues no transaction; the machine after
reset has them too. -/
def Obligations.ResetValues : Prop :=
  (∀ s : State, ∃ t, exec .reset s = .next t ∧
    t.phase = .idle ∧ t.err = 0 ∧ t.mode = 0 ∧ t.wrAcc = 0 ∧ t.wrCnt = 0 ∧ t.rdCnt = 0 ∧ t.nodeCnt = 0 ∧
    t.stack = [] ∧ statusByte t = 0x00#8 ∧ t.out = s.out ∧ t.snk = s.snk ∧ t.trace = s.trace ∧
    t.src = s.src ∧ t.pos = s.pos) ∧
  State.reset.phase = .idle ∧ State.reset.err = 0 ∧ State.reset.mode = 0 ∧ State.reset.wrAcc = 0 ∧
  State.reset.wrCnt = 0 ∧ State.reset.rdCnt = 0 ∧ State.reset.nodeCnt = 0 ∧ State.reset.stack = [] ∧
  statusByte State.reset = 0x00#8

/-- log 11, log 12, log 13 (the model's choices): where an operation's precondition does not hold it stops
by name: too few nodes alive (none, or for TB.MERGE one); a node beyond the last entry; a walk that needs a
257th entry of the stack; a width outside 1..32; a path no CODE entry can hold. -/
def Obligations.NamedStops : Prop :=
  ∀ s : State,
    ((∀ i : NodeIx, i.val < s.nodeCnt.val → s.alive.get i = false) →
      exec .tbMin s = .fault .noAliveNode ∧ exec .tbMerge s = .fault .noAliveNode) ∧
    (∀ j : NodeIx, j.val < s.nodeCnt.val → s.alive.get j = true →
      (∀ i : NodeIx, i.val < s.nodeCnt.val → s.alive.get i = true → i = j) →
      exec .tbMerge s = .fault .noAliveNode) ∧
    (s.nodeCnt.val = 513 →
      (∀ p q : NodeIx, p ≠ q → s.alive.get p = true → s.alive.get q = true →
        exec .tbMerge s = .fault .nodeMemoryFull) ∧
      (s.intCnt.val < 256 → exec .nodeInternal s = .fault .nodeMemoryFull) ∧
      (∀ (v : BitVec 9) (y : Sym), v.toNat = y.val → s.seen.get y = false →
        exec (.nodeLeaf v) s = .fault .nodeMemoryFull)) ∧
    (s.intCnt.val < 256 → s.nodeCnt.val < 513 → maxDepth ≤ s.stack.length →
      exec .nodeInternal s = .fault .walkTooDeep) ∧
    (∀ c : Nat → NodeIx, (∀ k, k ≤ maxDepth → (nodeAt s (c k)).kind = .internal) →
      (∀ k, k < maxDepth → (nodeAt s (c k)).left = c (k + 1)) →
      exec (.hdrSer (c 0)) s = .fault .walkTooDeep ∧
      (∀ path, path.length ≤ maxDepth → exec (.ctWalk (c 0) path) s = .fault .walkTooDeep) ∧
      (s.root = c 0 → exec .ctDerive s = .fault .walkTooDeep)) ∧
    (∀ n v, widthOk n = false → exec (.writebits n v) s = .refused (.widthOutOfRange n) ∧
      exec (.readbits n) s = .refused (.widthOutOfRange n)) ∧
    (∀ i path, maxDepth < path.length → exec (.ctWalk i path) s = .refused (.pathTooLong path.length))

/-! ### Invariants and whole-machine rules -/

/-- R37: the machine after reset meets the register invariants and what every phase relies on. -/
def Obligations.LiveAtReset : Prop := State.reset.Inv ∧ State.reset.Live

/-- R22, R23, R33, R35, R143, R155: every step keeps the register invariants: the packer's unused bits are
0, counts and weights fit in W bits, ERR is 0 exactly outside ERROR, MODE goes with the phase, the traversal
stack is empty outside a walk and never over 256 entries, the source position stays in range. -/
def Obligations.InvariantKept : Prop :=
  ∀ s t : State, s.Inv → step s = .next t → t.Inv

/-- R227, R245, R273 (and 93_implementation_defined.md: "Stuck" does not occur): from every state of a run
the machine takes a step, to a state of a run again: no walk too deep, no node memory overflow, no empty
priority collection. -/
def Obligations.StepNeverStops : Prop :=
  ∀ s : State, s.Live → ∃ t, step s = .next t ∧ t.Live

/-- R227: PHASE changes only along the arrows of the transition graph, those of commands and reset only by
that command and by reset. -/
def Obligations.PhaseFollowsTheGraph : Prop :=
  ∀ s t : State, s.Live → step s = .next t →
    t.phase = s.phase ∨ controllerArrow s.phase t.phase = true ∨
    (∃ c rest, s.host = .write c :: rest ∧ commandArrow c s.phase t.phase = true) ∨
    (∃ rest, s.host = .reset :: rest ∧ t.phase = .idle)

/-- R230, R236: a step that enters ERROR records a code that the table gives for the phase it left, and
keeps MODE. -/
def Obligations.ErrorsComeFromTheirPhases : Prop :=
  ∀ s t : State, s.Live → step s = .next t → s.phase ≠ .error → t.phase = .error →
    errorFrom s.phase t.err = true ∧ t.mode = s.mode

/-- R73, R26, R31, R32, R23: a step of the controller writes NODE, NODE_CNT and ROOT only in C_BUILD and
D_HEADER, ALIVE only in C_BUILD, CODE and CODE_VALID only in C_CODES, FREQ and TOTAL only in C_COUNT, SEEN
and INT_CNT only in D_HEADER, CUR only in D_BODY, and MODE never. -/
def Obligations.TablesWrittenInTheirPhases : Prop :=
  ∀ s t : State, s.host = [] → step s = .next t →
    (s.phase ≠ .cBuild → s.phase ≠ .dHeader → t.node = s.node ∧ t.nodeCnt = s.nodeCnt ∧ t.root = s.root) ∧
    (s.phase ≠ .cBuild → t.alive = s.alive) ∧
    (s.phase ≠ .cCodes → t.code = s.code ∧ t.codeValid = s.codeValid) ∧
    (s.phase ≠ .cCount → t.freq = s.freq ∧ t.total = s.total) ∧
    (s.phase ≠ .dHeader → t.seen = s.seen ∧ t.intCnt = s.intCnt) ∧
    (s.phase ≠ .dBody → t.cur = s.cur) ∧ t.mode = s.mode ∧ t.par = s.par

/-- R70 (b) and (c), R61: OUT grows only at its end while the sink is open and the host keeps it, and the
transactions of the streams only follow one another; a working phase that ends in DONE has just closed the sink,
one that ends in ERROR has just aborted it. -/
def Obligations.OutputKeepsItsOrder : Prop :=
  ∀ s t : State, step s = .next t →
    s.trace <+: t.trace ∧
    (s.snk = .opened → (∀ rest, s.host ≠ .sink :: rest) → s.out <+: t.out) ∧
    (isBusy s.phase = true → s.host = [] → t.phase = .done →
      t.snk = .closed ∧ t.trace.getLast? = some .snkClose) ∧
    (isBusy s.phase = true → s.host = [] → t.phase = .error →
      t.snk = .aborted ∧ t.trace.getLast? = some .snkAbort)

/-! ### Bit packer and bit unpacker -/

/-- R127, R123, R126, R122: CH.INIT, ABORT, REWIND and CLOSE, with all they leave unchanged. -/
def Obligations.ChannelControl : Prop :=
  ∀ s : State,
    exec .chInit s = .next { s with wrAcc := 0, wrCnt := 0, rdCnt := 0 } ∧
    exec .abort s = .next { s with
      wrAcc := 0, wrCnt := 0, snk := .aborted, trace := s.trace ++ [.snkAbort] } ∧
    exec .rewind s = .next { s with pos := 0, rdCnt := 0, trace := s.trace ++ [.srcRewind] } ∧
    (s.wrCnt = 0 → exec .close s = .next { s with snk := .closed, trace := s.trace ++ [.snkClose] }) ∧
    (s.wrCnt ≠ 0 → s.snk = .opened → exec .close s = .next { s with
      out := s.out ++ [s.wrAcc], wrAcc := 0, wrCnt := 0, snk := .closed,
      trace := s.trace ++ [.snkPut s.wrAcc, .snkClose] })

/-- R120: PUTBIT writes bit `7 - WR_CNT` of WR_ACC; the eighth bit puts the byte and empties the packer, no
other bit causes a transaction; the low bits stay 0. -/
def Obligations.PutbitAppendsOneBit : Prop :=
  ∀ (s : State) (b : Bool), ∃ t x, exec (.putbit b) s = .next t ∧
    (∀ k, k < 8 → x.getLsbD k = if k = 7 - s.wrCnt.val then b else s.wrAcc.getLsbD k) ∧
    (s.wrCnt.val < 7 → t = { s with wrAcc := x, wrCnt := t.wrCnt } ∧ t.wrCnt.val = s.wrCnt.val + 1) ∧
    (s.wrCnt.val = 7 → t = { s with
      wrAcc := 0, wrCnt := 0, out := t.out, fresh := t.fresh, trace := s.trace ++ [.snkPut x] }) ∧
    (s.wrCnt.val = 7 → s.snk = .opened → t.out = s.out ++ [x] ∧ t.fresh = s.fresh) ∧
    (PackerClean s → PackerClean t)

/-- R121: WRITEBITS n, v is PUTBIT of `v[n-1]` down to `v[0]`; it puts `(WR_CNT + n) / 8` bytes and touches
the packer and the sink only. -/
def Obligations.WritebitsIsPutbits : Prop :=
  ∀ (s : State) (n : Nat) (v : BitVec 32), 1 ≤ n → n ≤ 32 → ∃ t,
    exec (.writebits n v) s = .next t ∧
    execSeq ((List.range n).map fun k => .putbit (v.getLsbD (n - 1 - k))) s = .next t ∧
    putsIn t.trace = putsIn s.trace + (s.wrCnt.val + n) / 8 ∧
    t = { s with wrAcc := t.wrAcc, wrCnt := t.wrCnt, out := t.out, fresh := t.fresh, trace := t.trace }

/-- R124: GETBIT delivers the next bit of the source, bit 7 of a byte first, fetching a byte only when none is
left; at the end of the source the result is EOF, as often as it is asked. -/
def Obligations.GetbitDeliversTheNextBit : Prop :=
  ∀ s : State,
    (∀ b l, remaining s = b :: l → ∃ t, exec .getbit s = .next t ∧ t.ret = .bit b ∧ remaining t = l ∧
      (s.rdCnt ≠ 0 → t.trace = s.trace ∧ t.pos = s.pos ∧ t.rdByte = s.rdByte) ∧
      (s.rdCnt = 0 → t.pos = s.pos + 1 ∧ t.rdCnt = 7 ∧ s.src[s.pos]? = some t.rdByte ∧
        t.trace = s.trace ++ [.srcNext (some t.rdByte)]) ∧
      t = { s with ret := t.ret, rdByte := t.rdByte, rdCnt := t.rdCnt, pos := t.pos, trace := t.trace }) ∧
    (remaining s = [] →
      exec .getbit s = .next { s with ret := .eof, trace := s.trace ++ [.srcNext none] })

/-- R125: READBITS n returns the numeral of the next n bits, or EOF exactly when fewer are left, and then
they are lost. -/
def Obligations.ReadbitsReturnsTheNumeral : Prop :=
  ∀ (s : State) (n : Nat), 1 ≤ n → n ≤ 32 → ∃ t, exec (.readbits n) s = .next t ∧
    t = { s with ret := t.ret, rdByte := t.rdByte, rdCnt := t.rdCnt, pos := t.pos, trace := t.trace } ∧
    (n ≤ (remaining s).length → remaining t = (remaining s).drop n ∧
      t.ret = .value (BitVec.ofNat 32 (numeral ((remaining s).take n)))) ∧
    ((remaining s).length < n → remaining t = [] ∧ t.ret = .eof)

/-- R129: from an empty unpacker each READBITS 8 costs one SrcNext and returns the byte; from an empty packer
each WRITEBITS 8 puts exactly the low byte. -/
def Obligations.WholeBytes : Prop :=
  ∀ s : State,
    (∀ b, s.rdCnt = 0 → s.src[s.pos]? = some b → exec (.readbits 8) s = .next { s with
      ret := .value (b.setWidth 32), pos := s.pos + 1, rdByte := b, trace := s.trace ++ [.srcNext (some b)] }) ∧
    (s.rdCnt = 0 → s.src[s.pos]? = none → exec (.readbits 8) s = .next { s with
      ret := .eof, trace := s.trace ++ [.srcNext none] }) ∧
    (∀ v : BitVec 32, s.wrCnt = 0 → s.wrAcc = 0 → s.snk = .opened → exec (.writebits 8 v) s = .next { s with
      out := s.out ++ [v.setWidth 8], trace := s.trace ++ [.snkPut (v.setWidth 8)] })

/-- R128: the bits put from an empty packer and closed make `ceil(L/8)` bytes, and an unpacker on those bytes
delivers exactly them, then the zero pad bits, then EOF. -/
def Obligations.PackThenUnpack : Prop :=
  ∀ (s u : State) (l : BitString),
    s.wrAcc = 0 → s.wrCnt = 0 → s.snk = .opened → s.out = [] →
    ∃ t, execSeq (l.map .putbit ++ [.close]) s = .next t ∧ t.out.length = (l.length + 7) / 8 ∧
      (u.src = t.out → u.pos = 0 → u.rdCnt = 0 → ∃ v w,
        getBits l.length u = (some l, v) ∧
        getBits ((8 - l.length % 8) % 8) v = (some (List.replicate ((8 - l.length % 8) % 8) false), w) ∧
        (getBit w).1 = none)

/-! ### Frequency counter -/

/-- R140, R141, R235: FC.CLEAR sets every count to 0, the end marker's to 1, and TOTAL to 1. FC.COUNT takes one
byte and adds one to its count and to TOTAL; at the end of the source the result is `end`; when TOTAL is
`2^W - 1` the byte is consumed, the counts stay and count-overflow is taken. -/
def Obligations.CountingSteps : Prop :=
  ∀ s : State,
    (∃ t, exec .fcClear s = .next t ∧ t = { s with freq := t.freq, total := 1 } ∧
      t.freq.get pseudoEof = 1 ∧ ∀ y, y ≠ pseudoEof → t.freq.get y = 0) ∧
    (s.rdCnt = 0 → s.src[s.pos]? = none → exec .fcCount s = .next { s with
      ret := .finished, trace := s.trace ++ [.srcNext none] }) ∧
    (∀ b, s.rdCnt = 0 → s.src[s.pos]? = some b → s.total = countSum s → s.total < 2 ^ s.par.w - 1 →
      ∃ t, exec .fcCount s = .next t ∧
      t = { s with
        ret := .more, pos := s.pos + 1, rdByte := b, trace := s.trace ++ [.srcNext (some b)],
        total := s.total + 1, freq := t.freq } ∧
      ∀ y, t.freq.get y = if y = symOfByte b then s.freq.get y + 1 else s.freq.get y) ∧
    (∀ b, s.rdCnt = 0 → s.src[s.pos]? = some b → s.total = 2 ^ s.par.w - 1 → s.phase ≠ .idle →
      exec .fcCount s = .next { s with
        pos := s.pos + 1, rdByte := b, trace := s.trace ++ [.srcNext (some b), .snkAbort],
        wrAcc := 0, wrCnt := 0, snk := .aborted, err := 5, phase := .error, micro := .start, ret := .none,
        stack := [] })

/-- R142, R235: FC.RUN on a source of N bytes: with `N <= 2^W - 2` every count is the number of occurrences,
TOTAL is N + 1, N + 1 SrcNext were made; otherwise count-overflow, on reading byte `2^W - 2`. -/
def Obligations.CountingPass : Prop :=
  ∀ s : State, s.rdCnt = 0 → s.pos = 0 → 1 ≤ s.par.w →
    (s.src.length ≤ 2 ^ s.par.w - 2 → ∃ t, exec .fcRun s = .next t ∧
      (∀ b : Byte, t.freq.get (symOfByte b) = s.src.count b) ∧ t.freq.get pseudoEof = 1 ∧
      t.total = s.src.length + 1 ∧ t.pos = s.src.length ∧ t.rdCnt = 0 ∧
      nextsIn t.trace = nextsIn s.trace + s.src.length + 1 ∧
      t = { s with freq := t.freq, total := t.total, pos := t.pos, rdByte := t.rdByte, trace := t.trace }) ∧
    (2 ^ s.par.w - 2 < s.src.length → ∃ t, exec .fcRun s = .next t ∧
      t.phase = .error ∧ t.err = 5 ∧ t.pos = 2 ^ s.par.w - 1 ∧ t.total = 2 ^ s.par.w - 1)

/-! ### Tree builder -/

/-- R150: TB.INIT makes one alive leaf per symbol with count > 0, in ascending order of symbol, from index 0. -/
def Obligations.LeavesInitialised : Prop :=
  ∀ s : State, ∃ t, exec .tbInit s = .next t ∧
    t = { s with node := t.node, alive := t.alive, nodeCnt := t.nodeCnt } ∧
    t.nodeCnt.val = ((List.finRange 257).filter fun y => 0 < s.freq.get y).length ∧
    ∀ (i : NodeIx), match ((List.finRange 257).filter fun y => 0 < s.freq.get y)[i.val]? with
      | some y => nodeAt t i = { kind := .leaf, value := y, weight := s.freq.get y, left := 0, right := 0 } ∧
          t.alive.get i = true
      | none => nodeAt t i = nodeAt s i ∧ t.alive.get i = s.alive.get i

/-- R151: TB.MIN returns the alive node with the least pair (WEIGHT, index). That it removes nothing is the
model's reading of R151 against the opcode table's note "remove and return" (log 9); the index stands in the
result field (log 7). -/
def Obligations.MinIsLeast : Prop :=
  ∀ (s : State) (j : NodeIx), j.val < s.nodeCnt.val → s.alive.get j = true →
    ∃ i, exec .tbMin s = .next { s with ret := .node i } ∧ i.val < s.nodeCnt.val ∧ s.alive.get i = true ∧
      ∀ k : NodeIx, k.val < s.nodeCnt.val → s.alive.get k = true →
        (nodeAt s i).weight < (nodeAt s k).weight ∨
        (nodeAt s i).weight = (nodeAt s k).weight ∧ i ≤ k

/-- R152: TB.MERGE removes the least node and then the least of the rest, and adds an Internal node with the
first as left and the second as right child and the sum of their weights, which the model cuts to W bits
(log 17); R155 says that in a run it never overflows. -/
def Obligations.MergeTakesTheTwoLeast : Prop :=
  ∀ (s : State) (p q : NodeIx), p ≠ q → p.val < s.nodeCnt.val → q.val < s.nodeCnt.val →
    s.alive.get p = true → s.alive.get q = true → s.nodeCnt.val < 513 →
    ∃ a b n t, exec .tbMerge s = .next t ∧ a ≠ b ∧ n.val = s.nodeCnt.val ∧
      exec .tbMin s = .next { s with ret := .node a } ∧
      exec .tbMin (setAlive a false s) = .next { setAlive a false s with ret := .node b } ∧
      nodeAt t n = { kind := .internal, value := 0,
                     weight := ((nodeAt s a).weight + (nodeAt s b).weight) % 2 ^ s.par.w, left := a, right := b } ∧
      (∀ i, i ≠ n → nodeAt t i = nodeAt s i) ∧
      (∀ i, t.alive.get i = if i = n then true else if i = a ∨ i = b then false else s.alive.get i) ∧
      t.nodeCnt.val = s.nodeCnt.val + 1 ∧ t = { s with node := t.node, alive := t.alive, nodeCnt := t.nodeCnt }

/-- R153, R158, R156: TB.BUILD makes a valid tree whose leaves are exactly the symbols with count > 0, each
with its count, at ROOT, the last node made; with D + 1 such symbols there are 2D + 1 nodes. -/
def Obligations.BuildMakesAValidTree : Prop :=
  ∀ s : State, 0 < s.freq.get pseudoEof → ∃ t T, exec .tbBuild s = .next t ∧ t.tree = some T ∧ T.valid ∧
    (∀ y, y ∈ T.values ↔ 0 < s.freq.get y) ∧
    t.nodeCnt.val + 1 = 2 * ((List.finRange 257).filter fun y => 0 < s.freq.get y).length ∧
    t.root.val + 1 = t.nodeCnt.val ∧
    (∀ i : NodeIx, i.val < t.nodeCnt.val → (nodeAt t i).kind = .leaf →
      (nodeAt t i).weight = s.freq.get (nodeAt t i).value) ∧
    T.leaves ≤ 257 ∧ T.internals ≤ 256 ∧ T.height ≤ 256 ∧
    t = { s with node := t.node, alive := t.alive, nodeCnt := t.nodeCnt, root := t.root }

/-- R155: when the counts add up to a W-bit TOTAL, no weight wraps: every Internal weight is the sum of its
children's and the root's is TOTAL. -/
def Obligations.BuiltWeightsAddUp : Prop :=
  ∀ (s t : State) (T : SymbolTree), 0 < s.freq.get pseudoEof → s.total = countSum s → s.total < 2 ^ s.par.w →
    exec .tbBuild s = .next t → t.tree = some T → T.weightsAdd ∧ T.weight = s.total

/-- R157: a strictly more frequent symbol has a code no longer than a less frequent one. -/
def Obligations.FrequentSymbolsAreNotDeeper : Prop :=
  ∀ (s t : State) (T : SymbolTree) (x y : Sym) (p q : BitString),
    0 < s.freq.get pseudoEof → countSum s < 2 ^ s.par.w → exec .tbBuild s = .next t → t.tree = some T →
    s.freq.get y < s.freq.get x → T.code x = some p → T.code y = some q → p.length ≤ q.length

/-! ### Code table -/

/-- R165, R166, R167: CT.DERIVE records for every leaf its root-to-leaf path (length, and numeral in BITS),
makes exactly the leaves valid and changes nothing else; a lone leaf gets the empty code. -/
def Obligations.CodesAreThePaths : Prop :=
  ∀ (s : State) (T : SymbolTree), s.tree = some T → T.distinct → ∃ t, exec .ctDerive s = .next t ∧
    t = { s with code := t.code, codeValid := t.codeValid } ∧
    ∀ y, match T.code y with
      | some p => t.codeValid.get y = true ∧ (t.code.get y).len.val = p.length ∧
          (t.code.get y).bits.toNat = numeral p ∧ codeBits (t.code.get y) = p
      | none => t.codeValid.get y = false ∧ t.code.get y = s.code.get y

/-- R165: CT.WALK(i, path) records for every leaf below node i the path extended by the way to it, and leaves
every other entry alone. -/
def Obligations.WalkExtendsThePath : Prop :=
  ∀ (s : State) (T : SymbolTree) (i : NodeIx) (path : BitString), path.length ≤ maxDepth →
    treeAt s (maxDepth - path.length) i = some T → T.distinct → ∃ t, exec (.ctWalk i path) s = .next t ∧
    t = { s with code := t.code, codeValid := t.codeValid } ∧
    ∀ y, match T.code y with
      | some p => t.codeValid.get y = true ∧ codeBits (t.code.get y) = path ++ p
      | none => t.codeValid.get y = s.codeValid.get y ∧ t.code.get y = s.code.get y

/-- R168: the codes of two different leaves of any tree: neither is a prefix of the other, and no code of a tree
with two or more leaves is empty. -/
def Obligations.CodesArePrefixFree : Prop :=
  ∀ (T : SymbolTree) (x y : Sym) (p q : BitString), x ≠ y → T.code x = some p → T.code y = some q →
    ¬ p <+: q ∧ ¬ q <+: p ∧ 1 ≤ p.length

/-- R170: the Kraft sum of the codes of a tree without repeated values is 1. -/
def Obligations.KraftEquality : Prop :=
  ∀ T : SymbolTree, T.distinct → (T.values.map fun v => ((1 : ℚ) / 2) ^ (T.codeBits v).length).sum = 1

/-! ### Header codec -/

/-- R175, R176: HDR.SER i writes exactly the preorder bits of the tree at i, 10 per leaf and 1 per Internal
node. -/
def Obligations.SerializesInPreorder : Prop :=
  ∀ (s : State) (T : SymbolTree) (i : NodeIx), treeAt s maxDepth i = some T →
    exec (.hdrSer i) s = .next (putBits T.ser s) ∧
    execSeq (T.ser.map .putbit) s = .next (putBits T.ser s) ∧
    T.ser.length = 10 * T.leaves + T.internals ∧ T.ser.length + 1 = 11 * T.leaves

/-- R183, and R92, R93, R177 to R180: HDR.INIT; and one header token: the checks in their order, the node
written, and the node linked where the enclosing calls wait for it. -/
def Obligations.HeaderTokens : Prop :=
  ∀ s : State,
    (∃ t, exec .hdrInit s = .next t ∧ t = { s with nodeCnt := 0, intCnt := 0, seen := t.seen } ∧
      ∀ y, t.seen.get y = false) ∧
    (s.intCnt.val < 256 → s.stack.length < maxDepth → ∀ h : s.nodeCnt.val < 513, ∃ t,
      exec .nodeInternal s = .next t ∧
      t.nodeCnt.val = s.nodeCnt.val + 1 ∧ t.intCnt.val = s.intCnt.val + 1 ∧
      t.stack = ⟨⟨s.nodeCnt.val, h⟩, .left⟩ :: s.stack ∧
      nodeAt t ⟨s.nodeCnt.val, h⟩ = { kind := .internal, value := 0, weight := 0, left := 0, right := 0 } ∧
      (∀ i : NodeIx, i.val ≠ s.nodeCnt.val → nodeAt t i = nodeAt s i) ∧
      t = { s with node := t.node, nodeCnt := t.nodeCnt, intCnt := t.intCnt, stack := t.stack, ret := .none }) ∧
    (s.intCnt.val = 256 → exec .nodeInternal s = .next (raise .malformedHeader s)) ∧
    (∀ v : BitVec 9, 256 < v.toNat → exec (.nodeLeaf v) s = .next (raise .malformedHeader s)) ∧
    (∀ (v : BitVec 9) (y : Sym), v.toNat = y.val → s.seen.get y = true →
      exec (.nodeLeaf v) s = .next (raise .malformedHeader s)) ∧
    (∀ (v : BitVec 9) (y : Sym), v.toNat = y.val → s.seen.get y = false → ∀ h : s.nodeCnt.val < 513,
      ∃ t, t = { s with node := t.node, nodeCnt := t.nodeCnt, seen := t.seen } ∧
        t.nodeCnt.val = s.nodeCnt.val + 1 ∧
        nodeAt t ⟨s.nodeCnt.val, h⟩ = { kind := .leaf, value := y, weight := 0, left := 0, right := 0 } ∧
        (∀ i : NodeIx, i.val ≠ s.nodeCnt.val → nodeAt t i = nodeAt s i) ∧
        (∀ x, t.seen.get x = if x = y then true else s.seen.get x) ∧
        (s.stack = [] → exec (.nodeLeaf v) s = .next { t with ret := .node ⟨s.nodeCnt.val, h⟩ }) ∧
        (∀ p rest, s.stack = ⟨p, .left⟩ :: rest → exec (.nodeLeaf v) s = .next
          { setNode p { nodeAt t p with left := ⟨s.nodeCnt.val, h⟩ } t with
            stack := ⟨p, .right⟩ :: rest, ret := .none }) ∧
        (∀ p rest, s.stack = ⟨p, .right⟩ :: rest → exec (.nodeLeaf v) s = .next
          (returnNode p rest (setNode p { nodeAt t p with right := ⟨s.nodeCnt.val, h⟩ } t))))

/-- R182, R177: after HDR.INIT, a source that holds `ser(T)` of a tree without repeated values is read back as
T without its weights, exactly its bits are consumed, and no error is taken. -/
def Obligations.HeaderRoundTrip : Prop :=
  ∀ (s : State) (T : SymbolTree) (z : BitString), T.distinct → s.nodeCnt = 0 → s.intCnt = 0 →
    (∀ y, s.seen.get y = false) → remaining s = T.ser ++ z →
    ∃ t, exec .hdrDes s = .next t ∧ t.ret = .node 0 ∧ treeAt t maxDepth 0 = some T.unweighted ∧
      remaining t = z ∧ t.nodeCnt.val = T.leaves + T.internals ∧ t.intCnt.val = T.internals ∧
      (∀ y, t.seen.get y = true ↔ y ∈ T.values) ∧
      t = { s with
        node := t.node, nodeCnt := t.nodeCnt, intCnt := t.intCnt, seen := t.seen, ret := t.ret,
        rdByte := t.rdByte, rdCnt := t.rdCnt, pos := t.pos, trace := t.trace }

/-- R181, R182: conversely, whatever HDR.DES accepts after HDR.INIT is `ser` of a tree without repeated values,
which it leaves in the node memory with the right counts. -/
def Obligations.AcceptedHeadersAreTrees : Prop :=
  ∀ (s t : State) (n : NodeIx), s.nodeCnt = 0 → s.intCnt = 0 → (∀ y, s.seen.get y = false) →
    exec .hdrDes s = .next t → t.ret = .node n →
    ∃ T, treeAt t maxDepth n = some T ∧ T.distinct ∧ remaining s = T.ser ++ remaining t ∧
      T.leaves = t.intCnt.val + 1 ∧ T.leaves ≤ 257 ∧ t.nodeCnt.val = T.leaves + T.internals

/-- R184, R232: a source that ends inside the header of a tree without repeated values is reported as
truncated-header. -/
def Obligations.TruncatedHeaderReported : Prop :=
  ∀ (s : State) (T : SymbolTree) (b : Bool) (z : BitString), T.distinct → s.nodeCnt = 0 → s.intCnt = 0 →
    (∀ y, s.seen.get y = false) → T.ser = remaining s ++ b :: z →
    ∃ t, exec .hdrDes s = .next t ∧ t.phase = .error ∧ t.err = 2 ∧ t.out = s.out

/-! ### Encoder and decoder -/

/-- R197, R199, R237: ENC.SYM writes the code of a symbol bit by bit, for codes of 1 to 32 bits as WRITEBITS
would, and takes no-code when the symbol has none; ENC.EOF is ENC.SYM 256. -/
def Obligations.SymbolEncoding : Prop :=
  ∀ (s : State) (y : Sym),
    exec .encEof s = exec (.encSym 256) s ∧
    (s.codeValid.get y = true → exec (.encSym y) s =
      .next (putBits (bitsOf (s.code.get y).len.val (s.code.get y).bits.toNat) s)) ∧
    (s.codeValid.get y = true → 1 ≤ (s.code.get y).len.val → (s.code.get y).len.val ≤ 32 →
      exec (.encSym y) s = exec (.writebits (s.code.get y).len.val ((s.code.get y).bits.setWidth 32)) s) ∧
    (s.codeValid.get y = false → exec (.encSym y) s = .next (raise .noCode s))

/-- R209, R233: DEC.STEP takes one bit and one edge; at an Internal node it goes on, at the leaf 256 it stops,
at another leaf it writes the byte and returns to the root; without a bit it takes truncated-stream. -/
def Obligations.DecoderStep : Prop :=
  ∀ s : State,
    (∀ t, getBit s = (none, t) → exec .decStep s = .next (raise .truncatedStream t)) ∧
    (∀ b t c, getBit s = (some b, t) → c = (if b then (nodeAt s s.cur).right else (nodeAt s s.cur).left) →
      ((nodeAt s c).kind = .internal → exec .decStep s = .next { t with cur := c, ret := .go }) ∧
      ((nodeAt s c).kind = .leaf → (nodeAt s c).value = 256 →
        exec .decStep s = .next { t with cur := c, ret := .stop }) ∧
      ((nodeAt s c).kind = .leaf → (nodeAt s c).value ≠ 256 → s.wrCnt = 0 → s.wrAcc = 0 → s.snk = .opened →
        exec .decStep s = .next { t with
          cur := s.root, ret := .go, out := s.out ++ [BitVec.ofNat 8 (nodeAt s c).value.val],
          trace := t.trace ++ [.snkPut (BitVec.ofNat 8 (nodeAt s c).value.val)] }))

/-- R95, R98, R209: the codeword of a leaf, taken from the root, emits the leaf's byte and returns to the
root, or, for 256, stops without emitting; PAD does nothing (R103). -/
def Obligations.CodewordEmitsItsSymbol : Prop :=
  ∀ (s : State) (T : SymbolTree) (y : Sym) (p : BitString) (n : Nat),
    exec (.pad n) s = .next s ∧
    (s.tree = some T → 2 ≤ T.leaves → T.code y = some p → s.cur = s.root → s.wrCnt = 0 → s.wrAcc = 0 →
      s.snk = .opened → ∃ t, exec (.codeword p) s = .next t ∧
      (y ≠ 256 → t = { s with
        ret := .go, out := s.out ++ [BitVec.ofNat 8 y.val],
        trace := s.trace ++ [.snkPut (BitVec.ofNat 8 y.val)] }) ∧
      (y = 256 → t = { s with cur := t.cur, ret := .stop } ∧ (nodeAt t t.cur).value = 256))

/-! ### Phases -/

/-- R206, R231: the MAGIC token; and D_MAGIC reads 32 bits and goes on exactly when they are MAGIC; from an
empty unpacker a wrong marker costs four SrcNext and no more; fewer than 32 bits are a format-mismatch. -/
def Obligations.MagicIsChecked : Prop :=
  ∀ s : State,
    exec (.magic s.par.magic) s = .next { s with phase := .dHeader, micro := .start, ret := .none } ∧
    (∀ m, m ≠ s.par.magic → exec (.magic m) s = .next (raise .formatMismatch s)) ∧
    (∀ z, remaining s = bitsOf 32 s.par.magic.toNat ++ z →
      ∃ t, exec .dMagic s = .next t ∧ t.phase = .dHeader ∧ remaining t = z ∧
        t = { s with
          phase := t.phase, micro := .start, ret := .none, rdByte := t.rdByte, rdCnt := t.rdCnt,
          pos := t.pos, trace := t.trace }) ∧
    (∀ (m : BitVec 32) z, m ≠ s.par.magic → remaining s = bitsOf 32 m.toNat ++ z →
      ∃ t, exec .dMagic s = .next t ∧ t.phase = .error ∧ t.err = 1 ∧
        (s.rdCnt = 0 → nextsIn t.trace = nextsIn s.trace + 4)) ∧
    ((remaining s).length < 32 → ∃ t, exec .dMagic s = .next t ∧ t.phase = .error ∧ t.err = 1)

/-- R208, R211: D_ROOTCHK goes to D_CLOSE on a Leaf root, whatever its value, and to D_BODY on an Internal one,
and no bit is read; D_CLOSE, with nothing pending, closes the sink without a byte. -/
def Obligations.RootCheckAndClose : Prop :=
  ∀ s : State,
    ((nodeAt s s.root).kind = .leaf →
      exec .dRootchk s = .next { s with phase := .dClose, micro := .start, ret := .none }) ∧
    ((nodeAt s s.root).kind = .internal →
      exec .dRootchk s = .next { s with phase := .dBody, micro := .start, ret := .none }) ∧
    (∃ t, exec .close s = .next t ∧ exec .dClose s = .next (goto .done t)) ∧
    (s.wrCnt = 0 → exec .dClose s = .next { s with
      snk := .closed, trace := s.trace ++ [.snkClose], phase := .done, micro := .start, ret := .none })

/-- R190 to R196, R199, R200: each compress phase but C_BODY (which BodyWritesTheCodes states), where its
operation meets no error, does that operation and goes to the next phase. -/
def Obligations.CompressPhases : Prop :=
  ∀ s : State,
    (s.rdCnt = 0 → s.pos = 0 → 1 ≤ s.par.w → s.src.length ≤ 2 ^ s.par.w - 2 →
      ∃ t, exec .fcRun s = .next t ∧ exec .cCount s = .next (goto .cBuild t)) ∧
    (0 < s.freq.get pseudoEof → ∃ t, exec .tbBuild s = .next t ∧ exec .cBuild s = .next (goto .cCodes t)) ∧
    (s.tree.isSome = true → ∃ t, exec .ctDerive s = .next t ∧ exec .cCodes s = .next (goto .cMagic t)) ∧
    (∃ t, exec (.writebits 32 s.par.magic) s = .next t ∧ exec .cMagic s = .next (goto .cHeader t)) ∧
    (s.tree.isSome = true → ∃ t, exec (.hdrSer s.root) s = .next t ∧ exec .cHeader s = .next (goto .cRewind t)) ∧
    (∃ t, exec .rewind s = .next t ∧ exec .cRewind s = .next (goto .cBody t)) ∧
    (s.codeValid.get pseudoEof = true →
      ∃ t, exec .encEof s = .next t ∧ exec .cEof s = .next (goto .cFlush t)) ∧
    (∃ t, exec .close s = .next t ∧ exec .cFlush s = .next (goto .done t))

/-- R198: C_BODY writes the codes of the source's bytes in order and goes to C_EOF; a byte without a code
ends it in no-code. -/
def Obligations.BodyWritesTheCodes : Prop :=
  ∀ s : State, s.rdCnt = 0 → s.pos ≤ s.src.length →
    ((∀ b ∈ s.src.drop s.pos, s.codeValid.get (symOfByte b) = true) → ∃ t u, exec .cBody s = .next t ∧
      u = putBits ((s.src.drop s.pos).flatMap fun b => codeBits (s.code.get (symOfByte b))) s ∧
      t.phase = .cEof ∧ t.out = u.out ∧ t.wrAcc = u.wrAcc ∧ t.wrCnt = u.wrCnt ∧ t.pos = s.src.length ∧
      nextsIn t.trace = nextsIn s.trace + (s.src.length - s.pos) + 1 ∧
      t = { s with
        phase := t.phase, micro := .start, ret := .none, out := t.out, wrAcc := t.wrAcc, wrCnt := t.wrCnt,
        fresh := t.fresh, pos := t.pos, rdByte := t.rdByte, trace := t.trace }) ∧
    ((∃ b ∈ s.src.drop s.pos, s.codeValid.get (symOfByte b) = false) → ∃ t, exec .cBody s = .next t ∧
      t.phase = .error ∧ t.err = 6)

/-- R207, R182: D_HEADER on a source that holds a header leaves its tree at ROOT, index 0, and goes to
D_ROOTCHK. -/
def Obligations.HeaderPhaseReadsTheTree : Prop :=
  ∀ (s : State) (T : SymbolTree) (z : BitString), T.distinct → remaining s = T.ser ++ z →
    ∃ t, exec .dHeader s = .next t ∧ t.phase = .dRootchk ∧ t.root = 0 ∧ t.tree = some T.unweighted ∧
      remaining t = z ∧
      t = { s with
        phase := t.phase, micro := .start, ret := .none, root := t.root, node := t.node, nodeCnt := t.nodeCnt,
        intCnt := t.intCnt, seen := t.seen, rdByte := t.rdByte, rdCnt := t.rdCnt, pos := t.pos, trace := t.trace }

/-- R210, R212, R214: D_BODY on the codewords of leaves of the tree followed by the code of 256 puts the
symbols' bytes, goes to D_CLOSE and reads nothing more. -/
def Obligations.BodyDecodesItsSymbols : Prop :=
  ∀ (s : State) (T : SymbolTree) (x : List Byte) (z : BitString), s.tree = some T → 2 ≤ T.leaves →
    pseudoEof ∈ T.values → (∀ b ∈ x, symOfByte b ∈ T.values) →
    remaining s = (x.flatMap fun b => T.codeBits (symOfByte b)) ++ T.codeBits pseudoEof ++ z →
    s.wrCnt = 0 → s.wrAcc = 0 → s.snk = .opened →
    ∃ t, exec .dBody s = .next t ∧ t.phase = .dClose ∧ t.out = s.out ++ x ∧ remaining t = z ∧
      t = { s with
        phase := t.phase, micro := .start, ret := .none, cur := t.cur, out := t.out, rdByte := t.rdByte,
        rdCnt := t.rdCnt, pos := t.pos, trace := t.trace }

/-- R215, R233: with a tree that has no leaf 256 the body always ends in truncated-stream. -/
def Obligations.BodyWithoutEndMarkerIsTruncated : Prop :=
  ∀ (s : State) (T : SymbolTree), s.tree = some T → 2 ≤ T.leaves → pseudoEof ∉ T.values →
    ∃ t, exec .dBody s = .next t ∧ t.phase = .error ∧ t.err = 3

/-- R190, R205, R271, R206: the phases with loops, performed by single steps with a quiet host, end in exactly
the state their meaning gives, by normal end or by error; and the one step of D_MAGIC, which fetches the marker as
a token, is the phase's meaning, whatever the source holds. -/
def Obligations.StepsPerformThePhase : Prop :=
  ∀ s t : State, s.host = [] → s.micro = .start → s.stack = [] →
    (s.phase = .cCount → exec .cCount s = .next t → ∃ k, runSteps k s = .next t) ∧
    (s.phase = .cBody → exec .cBody s = .next t → ∃ k, runSteps k s = .next t) ∧
    (s.phase = .dHeader → exec .dHeader s = .next t → ∃ k, runSteps k s = .next t) ∧
    (s.phase = .dBody → exec .dBody s = .next t → ∃ k, runSteps k s = .next t) ∧
    (s.phase = .dMagic → step s = exec .dMagic s ∧ ∃ u, exec .dMagic s = .next u)

/-! ### Whole operations -/

/-- R201, R202: COMPRESS of a source of at most `2^W - 2` bytes ends in DONE with the sink closed and OUT the
packed stream of MAGIC, the header of the built tree, the codes and the terminator; the source is read twice. -/
def Obligations.CompressProducesTheStream : Prop :=
  ∀ s : State, s.Inv → s.phase = .idle → s.host = [.write 0x01#8] → s.pos = 0 → s.out = [] → s.snk = .opened →
    s.src.length ≤ 2 ^ s.par.w - 2 →
    ∃ k t T, runSteps k s = .next t ∧ statusByte t = 0x02#8 ∧ t.snk = .closed ∧ t.tree = some T ∧ T.valid ∧
      (∀ y, y ∈ T.values ↔ y = pseudoEof ∨ ∃ b ∈ s.src, symOfByte b = y) ∧
      t.out = packBits (streamBits s.par.magic T s.src) ∧ t.pos = s.src.length ∧
      nextsIn t.trace = nextsIn s.trace + (2 * s.src.length + 2)

/-- R212: DECOMPRESS of a source that starts with the stream of a valid tree with two or more leaves ends in
DONE with OUT the symbols; with a lone leaf, of any value (R208), it ends in DONE with OUT empty, whatever
follows the header. -/
def Obligations.DecompressReturnsTheSymbols : Prop :=
  ∀ (s : State) (T : SymbolTree) (x : List Byte) (z : BitString),
    s.Inv → s.phase = .idle → s.host = [.write 0x02#8] → s.pos = 0 → s.out = [] → s.snk = .opened →
    (T.valid → 2 ≤ T.leaves → (∀ b ∈ x, symOfByte b ∈ T.values) →
      unpackBytes s.src = streamBits s.par.magic T x ++ z →
      ∃ k t, runSteps k s = .next t ∧ statusByte t = 0x22#8 ∧ t.snk = .closed ∧ t.out = x) ∧
    (T.leaves = 1 → unpackBytes s.src = bitsOf 32 s.par.magic.toNat ++ T.ser ++ z →
      ∃ k t, runSteps k s = .next t ∧ statusByte t = 0x22#8 ∧ t.snk = .closed ∧ t.out = [])

/-- R213: COMPRESS of any S of at most `2^W - 2` bytes, then CLEAR, the output presented as a source with a
fresh sink, and DECOMPRESS, ends in DONE with the second OUT equal to S, whatever MAGIC and W are. -/
def Obligations.CompressThenDecompress : Prop :=
  ∀ s : State, s.Inv → s.phase = .idle → s.host = [.write 0x01#8] → s.pos = 0 → s.out = [] → s.snk = .opened →
    s.src.length ≤ 2 ^ s.par.w - 2 →
    ∃ k t, runSteps k s = .next t ∧ statusByte t = 0x02#8 ∧ t.snk = .closed ∧
      ∃ m u, runSteps m { t with
          host := [.write 0x03#8, .source t.out 0, .sink, .write 0x02#8] } = .next u ∧
        statusByte u = 0x22#8 ∧ u.snk = .closed ∧ u.out = s.src
end

