-- ==== Sys2Proof/Laws/Bits.lean ====
section
/-! SUPPORT. Bit strings and numerals (R8): lengths, bounds, and that `bitsOf` and `numeral` undo each
other. -/

namespace Sys2Proof.Laws

@[simp] theorem bitsOf_length (n v : Nat) : (bitsOf n v).length = n := by
  induction n with
  | zero => rfl
  | succ n ih => simp [bitsOf, ih]

theorem numeral_foldl (b : BitString) (a : Nat) :
    b.foldl (fun a x => 2 * a + x.toNat) a = a * 2 ^ b.length + numeral b := by
  induction b generalizing a with
  | nil => simp [numeral]
  | cons x l ih =>
    simp only [List.foldl_cons, numeral, List.length_cons]
    rw [ih, ih]
    ring

@[simp] theorem numeral_nil : numeral [] = 0 := rfl

theorem numeral_cons (x : Bool) (l : BitString) :
    numeral (x :: l) = x.toNat * 2 ^ l.length + numeral l := by
  have h := numeral_foldl l (2 * 0 + x.toNat)
  simpa [numeral] using h

theorem numeral_append (l m : BitString) :
    numeral (l ++ m) = numeral l * 2 ^ m.length + numeral m := by
  have h := numeral_foldl m (numeral l)
  rw [← h]
  simp [numeral, List.foldl_append]

theorem numeral_lt (l : BitString) : numeral l < 2 ^ l.length := by
  induction l with
  | nil => simp
  | cons x l ih =>
    rw [numeral_cons, List.length_cons, pow_succ]
    have : x.toNat * 2 ^ l.length ≤ 2 ^ l.length := by
      cases x <;> simp
    omega

/-- `numeral` undoes `bitsOf` up to the width (R8). -/
theorem numeral_bitsOf (n v : Nat) : numeral (bitsOf n v) = v % 2 ^ n := by
  induction n with
  | zero => simp [bitsOf, Nat.mod_one]
  | succ n ih =>
    rw [bitsOf, numeral_cons, ih, bitsOf_length, Nat.toNat_testBit, Nat.pow_succ, Nat.mod_mul]
    ring

/-- `bitsOf` undoes `numeral` (R8). -/
theorem bitsOf_numeral (l : BitString) : bitsOf l.length (numeral l) = l := by
  have key : ∀ (l : BitString) (k : Nat), bitsOf l.length (k * 2 ^ l.length + numeral l) = l := by
    intro l
    induction l with
    | nil => intro k; rfl
    | cons x l ih =>
      intro k
      have e : k * 2 ^ (l.length + 1) + numeral (x :: l)
          = (2 * k + x.toNat) * 2 ^ l.length + numeral l := by
        rw [numeral_cons, pow_succ]; ring
      have hlt := numeral_lt l
      rw [List.length_cons, bitsOf, e, ih]
      congr 1
      rw [Nat.testBit_eq_decide_div_mod_eq, Nat.mul_comm, Nat.mul_add_div (by positivity),
        Nat.div_eq_of_lt hlt]
      cases x <;> simp [Nat.add_mod]
  simpa using key l 0

end Sys2Proof.Laws
end

