-- ==== Sys2Proof/Laws/State.lean ====
section
/-! SUPPORT. One lemma per field and shared update: what each operation of Machine/Ops.lean leaves as
it was, and what it sets. No later proof unfolds a record update. -/

namespace Sys2Proof.Laws

open Sys2Proof.Machine

/-! ### srcRewind -/

@[simp] theorem srcRewind_par (s : State) : (srcRewind s).par = s.par := rfl
@[simp] theorem srcRewind_phase (s : State) : (srcRewind s).phase = s.phase := rfl
@[simp] theorem srcRewind_micro (s : State) : (srcRewind s).micro = s.micro := rfl
@[simp] theorem srcRewind_err (s : State) : (srcRewind s).err = s.err := rfl
@[simp] theorem srcRewind_mode (s : State) : (srcRewind s).mode = s.mode := rfl
@[simp] theorem srcRewind_freq (s : State) : (srcRewind s).freq = s.freq := rfl
@[simp] theorem srcRewind_total (s : State) : (srcRewind s).total = s.total := rfl
@[simp] theorem srcRewind_node (s : State) : (srcRewind s).node = s.node := rfl
@[simp] theorem srcRewind_nodeCnt (s : State) : (srcRewind s).nodeCnt = s.nodeCnt := rfl
@[simp] theorem srcRewind_root (s : State) : (srcRewind s).root = s.root := rfl
@[simp] theorem srcRewind_alive (s : State) : (srcRewind s).alive = s.alive := rfl
@[simp] theorem srcRewind_code (s : State) : (srcRewind s).code = s.code := rfl
@[simp] theorem srcRewind_codeValid (s : State) : (srcRewind s).codeValid = s.codeValid := rfl
@[simp] theorem srcRewind_seen (s : State) : (srcRewind s).seen = s.seen := rfl
@[simp] theorem srcRewind_intCnt (s : State) : (srcRewind s).intCnt = s.intCnt := rfl
@[simp] theorem srcRewind_cur (s : State) : (srcRewind s).cur = s.cur := rfl
@[simp] theorem srcRewind_wrAcc (s : State) : (srcRewind s).wrAcc = s.wrAcc := rfl
@[simp] theorem srcRewind_wrCnt (s : State) : (srcRewind s).wrCnt = s.wrCnt := rfl
@[simp] theorem srcRewind_rdByte (s : State) : (srcRewind s).rdByte = s.rdByte := rfl
@[simp] theorem srcRewind_rdCnt (s : State) : (srcRewind s).rdCnt = s.rdCnt := rfl
@[simp] theorem srcRewind_stack (s : State) : (srcRewind s).stack = s.stack := rfl
@[simp] theorem srcRewind_ret (s : State) : (srcRewind s).ret = s.ret := rfl
@[simp] theorem srcRewind_fresh (s : State) : (srcRewind s).fresh = s.fresh := rfl
@[simp] theorem srcRewind_src (s : State) : (srcRewind s).src = s.src := rfl
@[simp] theorem srcRewind_out (s : State) : (srcRewind s).out = s.out := rfl
@[simp] theorem srcRewind_snk (s : State) : (srcRewind s).snk = s.snk := rfl
@[simp] theorem srcRewind_host (s : State) : (srcRewind s).host = s.host := rfl
@[simp] theorem srcRewind_pos (s : State) : (srcRewind s).pos = 0 := rfl
@[simp] theorem srcRewind_trace (s : State) : (srcRewind s).trace = s.trace ++ [.srcRewind] := rfl

/-! ### snkPut -/

@[simp] theorem snkPut_par (b : Byte) (s : State) : (snkPut b s).par = s.par := rfl
@[simp] theorem snkPut_phase (b : Byte) (s : State) : (snkPut b s).phase = s.phase := rfl
@[simp] theorem snkPut_micro (b : Byte) (s : State) : (snkPut b s).micro = s.micro := rfl
@[simp] theorem snkPut_err (b : Byte) (s : State) : (snkPut b s).err = s.err := rfl
@[simp] theorem snkPut_mode (b : Byte) (s : State) : (snkPut b s).mode = s.mode := rfl
@[simp] theorem snkPut_freq (b : Byte) (s : State) : (snkPut b s).freq = s.freq := rfl
@[simp] theorem snkPut_total (b : Byte) (s : State) : (snkPut b s).total = s.total := rfl
@[simp] theorem snkPut_node (b : Byte) (s : State) : (snkPut b s).node = s.node := rfl
@[simp] theorem snkPut_nodeCnt (b : Byte) (s : State) : (snkPut b s).nodeCnt = s.nodeCnt := rfl
@[simp] theorem snkPut_root (b : Byte) (s : State) : (snkPut b s).root = s.root := rfl
@[simp] theorem snkPut_alive (b : Byte) (s : State) : (snkPut b s).alive = s.alive := rfl
@[simp] theorem snkPut_code (b : Byte) (s : State) : (snkPut b s).code = s.code := rfl
@[simp] theorem snkPut_codeValid (b : Byte) (s : State) : (snkPut b s).codeValid = s.codeValid := rfl
@[simp] theorem snkPut_seen (b : Byte) (s : State) : (snkPut b s).seen = s.seen := rfl
@[simp] theorem snkPut_intCnt (b : Byte) (s : State) : (snkPut b s).intCnt = s.intCnt := rfl
@[simp] theorem snkPut_cur (b : Byte) (s : State) : (snkPut b s).cur = s.cur := rfl
@[simp] theorem snkPut_wrAcc (b : Byte) (s : State) : (snkPut b s).wrAcc = s.wrAcc := rfl
@[simp] theorem snkPut_wrCnt (b : Byte) (s : State) : (snkPut b s).wrCnt = s.wrCnt := rfl
@[simp] theorem snkPut_rdByte (b : Byte) (s : State) : (snkPut b s).rdByte = s.rdByte := rfl
@[simp] theorem snkPut_rdCnt (b : Byte) (s : State) : (snkPut b s).rdCnt = s.rdCnt := rfl
@[simp] theorem snkPut_stack (b : Byte) (s : State) : (snkPut b s).stack = s.stack := rfl
@[simp] theorem snkPut_ret (b : Byte) (s : State) : (snkPut b s).ret = s.ret := rfl
@[simp] theorem snkPut_src (b : Byte) (s : State) : (snkPut b s).src = s.src := rfl
@[simp] theorem snkPut_pos (b : Byte) (s : State) : (snkPut b s).pos = s.pos := rfl
@[simp] theorem snkPut_snk (b : Byte) (s : State) : (snkPut b s).snk = s.snk := rfl
@[simp] theorem snkPut_host (b : Byte) (s : State) : (snkPut b s).host = s.host := rfl
@[simp] theorem snkPut_trace (b : Byte) (s : State) : (snkPut b s).trace = s.trace ++ [.snkPut b] := rfl

/-! ### snkClose -/

@[simp] theorem snkClose_par (s : State) : (snkClose s).par = s.par := rfl
@[simp] theorem snkClose_phase (s : State) : (snkClose s).phase = s.phase := rfl
@[simp] theorem snkClose_micro (s : State) : (snkClose s).micro = s.micro := rfl
@[simp] theorem snkClose_err (s : State) : (snkClose s).err = s.err := rfl
@[simp] theorem snkClose_mode (s : State) : (snkClose s).mode = s.mode := rfl
@[simp] theorem snkClose_freq (s : State) : (snkClose s).freq = s.freq := rfl
@[simp] theorem snkClose_total (s : State) : (snkClose s).total = s.total := rfl
@[simp] theorem snkClose_node (s : State) : (snkClose s).node = s.node := rfl
@[simp] theorem snkClose_nodeCnt (s : State) : (snkClose s).nodeCnt = s.nodeCnt := rfl
@[simp] theorem snkClose_root (s : State) : (snkClose s).root = s.root := rfl
@[simp] theorem snkClose_alive (s : State) : (snkClose s).alive = s.alive := rfl
@[simp] theorem snkClose_code (s : State) : (snkClose s).code = s.code := rfl
@[simp] theorem snkClose_codeValid (s : State) : (snkClose s).codeValid = s.codeValid := rfl
@[simp] theorem snkClose_seen (s : State) : (snkClose s).seen = s.seen := rfl
@[simp] theorem snkClose_intCnt (s : State) : (snkClose s).intCnt = s.intCnt := rfl
@[simp] theorem snkClose_cur (s : State) : (snkClose s).cur = s.cur := rfl
@[simp] theorem snkClose_wrAcc (s : State) : (snkClose s).wrAcc = s.wrAcc := rfl
@[simp] theorem snkClose_wrCnt (s : State) : (snkClose s).wrCnt = s.wrCnt := rfl
@[simp] theorem snkClose_rdByte (s : State) : (snkClose s).rdByte = s.rdByte := rfl
@[simp] theorem snkClose_rdCnt (s : State) : (snkClose s).rdCnt = s.rdCnt := rfl
@[simp] theorem snkClose_stack (s : State) : (snkClose s).stack = s.stack := rfl
@[simp] theorem snkClose_ret (s : State) : (snkClose s).ret = s.ret := rfl
@[simp] theorem snkClose_fresh (s : State) : (snkClose s).fresh = s.fresh := rfl
@[simp] theorem snkClose_src (s : State) : (snkClose s).src = s.src := rfl
@[simp] theorem snkClose_pos (s : State) : (snkClose s).pos = s.pos := rfl
@[simp] theorem snkClose_out (s : State) : (snkClose s).out = s.out := rfl
@[simp] theorem snkClose_host (s : State) : (snkClose s).host = s.host := rfl
@[simp] theorem snkClose_snk (s : State) : (snkClose s).snk = .closed := rfl
@[simp] theorem snkClose_trace (s : State) : (snkClose s).trace = s.trace ++ [.snkClose] := rfl

/-! ### snkAbort -/

@[simp] theorem snkAbort_par (s : State) : (snkAbort s).par = s.par := rfl
@[simp] theorem snkAbort_phase (s : State) : (snkAbort s).phase = s.phase := rfl
@[simp] theorem snkAbort_micro (s : State) : (snkAbort s).micro = s.micro := rfl
@[simp] theorem snkAbort_err (s : State) : (snkAbort s).err = s.err := rfl
@[simp] theorem snkAbort_mode (s : State) : (snkAbort s).mode = s.mode := rfl
@[simp] theorem snkAbort_freq (s : State) : (snkAbort s).freq = s.freq := rfl
@[simp] theorem snkAbort_total (s : State) : (snkAbort s).total = s.total := rfl
@[simp] theorem snkAbort_node (s : State) : (snkAbort s).node = s.node := rfl
@[simp] theorem snkAbort_nodeCnt (s : State) : (snkAbort s).nodeCnt = s.nodeCnt := rfl
@[simp] theorem snkAbort_root (s : State) : (snkAbort s).root = s.root := rfl
@[simp] theorem snkAbort_alive (s : State) : (snkAbort s).alive = s.alive := rfl
@[simp] theorem snkAbort_code (s : State) : (snkAbort s).code = s.code := rfl
@[simp] theorem snkAbort_codeValid (s : State) : (snkAbort s).codeValid = s.codeValid := rfl
@[simp] theorem snkAbort_seen (s : State) : (snkAbort s).seen = s.seen := rfl
@[simp] theorem snkAbort_intCnt (s : State) : (snkAbort s).intCnt = s.intCnt := rfl
@[simp] theorem snkAbort_cur (s : State) : (snkAbort s).cur = s.cur := rfl
@[simp] theorem snkAbort_wrAcc (s : State) : (snkAbort s).wrAcc = s.wrAcc := rfl
@[simp] theorem snkAbort_wrCnt (s : State) : (snkAbort s).wrCnt = s.wrCnt := rfl
@[simp] theorem snkAbort_rdByte (s : State) : (snkAbort s).rdByte = s.rdByte := rfl
@[simp] theorem snkAbort_rdCnt (s : State) : (snkAbort s).rdCnt = s.rdCnt := rfl
@[simp] theorem snkAbort_stack (s : State) : (snkAbort s).stack = s.stack := rfl
@[simp] theorem snkAbort_ret (s : State) : (snkAbort s).ret = s.ret := rfl
@[simp] theorem snkAbort_fresh (s : State) : (snkAbort s).fresh = s.fresh := rfl
@[simp] theorem snkAbort_src (s : State) : (snkAbort s).src = s.src := rfl
@[simp] theorem snkAbort_pos (s : State) : (snkAbort s).pos = s.pos := rfl
@[simp] theorem snkAbort_out (s : State) : (snkAbort s).out = s.out := rfl
@[simp] theorem snkAbort_host (s : State) : (snkAbort s).host = s.host := rfl
@[simp] theorem snkAbort_snk (s : State) : (snkAbort s).snk = .aborted := rfl
@[simp] theorem snkAbort_trace (s : State) : (snkAbort s).trace = s.trace ++ [.snkAbort] := rfl

/-! ### initChannel -/

@[simp] theorem initChannel_par (s : State) : (initChannel s).par = s.par := rfl
@[simp] theorem initChannel_phase (s : State) : (initChannel s).phase = s.phase := rfl
@[simp] theorem initChannel_micro (s : State) : (initChannel s).micro = s.micro := rfl
@[simp] theorem initChannel_err (s : State) : (initChannel s).err = s.err := rfl
@[simp] theorem initChannel_mode (s : State) : (initChannel s).mode = s.mode := rfl
@[simp] theorem initChannel_freq (s : State) : (initChannel s).freq = s.freq := rfl
@[simp] theorem initChannel_total (s : State) : (initChannel s).total = s.total := rfl
@[simp] theorem initChannel_node (s : State) : (initChannel s).node = s.node := rfl
@[simp] theorem initChannel_nodeCnt (s : State) : (initChannel s).nodeCnt = s.nodeCnt := rfl
@[simp] theorem initChannel_root (s : State) : (initChannel s).root = s.root := rfl
@[simp] theorem initChannel_alive (s : State) : (initChannel s).alive = s.alive := rfl
@[simp] theorem initChannel_code (s : State) : (initChannel s).code = s.code := rfl
@[simp] theorem initChannel_codeValid (s : State) : (initChannel s).codeValid = s.codeValid := rfl
@[simp] theorem initChannel_seen (s : State) : (initChannel s).seen = s.seen := rfl
@[simp] theorem initChannel_intCnt (s : State) : (initChannel s).intCnt = s.intCnt := rfl
@[simp] theorem initChannel_cur (s : State) : (initChannel s).cur = s.cur := rfl
@[simp] theorem initChannel_rdByte (s : State) : (initChannel s).rdByte = s.rdByte := rfl
@[simp] theorem initChannel_stack (s : State) : (initChannel s).stack = s.stack := rfl
@[simp] theorem initChannel_ret (s : State) : (initChannel s).ret = s.ret := rfl
@[simp] theorem initChannel_fresh (s : State) : (initChannel s).fresh = s.fresh := rfl
@[simp] theorem initChannel_src (s : State) : (initChannel s).src = s.src := rfl
@[simp] theorem initChannel_pos (s : State) : (initChannel s).pos = s.pos := rfl
@[simp] theorem initChannel_out (s : State) : (initChannel s).out = s.out := rfl
@[simp] theorem initChannel_snk (s : State) : (initChannel s).snk = s.snk := rfl
@[simp] theorem initChannel_trace (s : State) : (initChannel s).trace = s.trace := rfl
@[simp] theorem initChannel_host (s : State) : (initChannel s).host = s.host := rfl
@[simp] theorem initChannel_wrAcc (s : State) : (initChannel s).wrAcc = 0 := rfl
@[simp] theorem initChannel_wrCnt (s : State) : (initChannel s).wrCnt = 0 := rfl
@[simp] theorem initChannel_rdCnt (s : State) : (initChannel s).rdCnt = 0 := rfl

/-! ### abortOut -/

@[simp] theorem abortOut_par (s : State) : (abortOut s).par = s.par := rfl
@[simp] theorem abortOut_phase (s : State) : (abortOut s).phase = s.phase := rfl
@[simp] theorem abortOut_micro (s : State) : (abortOut s).micro = s.micro := rfl
@[simp] theorem abortOut_err (s : State) : (abortOut s).err = s.err := rfl
@[simp] theorem abortOut_mode (s : State) : (abortOut s).mode = s.mode := rfl
@[simp] theorem abortOut_freq (s : State) : (abortOut s).freq = s.freq := rfl
@[simp] theorem abortOut_total (s : State) : (abortOut s).total = s.total := rfl
@[simp] theorem abortOut_node (s : State) : (abortOut s).node = s.node := rfl
@[simp] theorem abortOut_nodeCnt (s : State) : (abortOut s).nodeCnt = s.nodeCnt := rfl
@[simp] theorem abortOut_root (s : State) : (abortOut s).root = s.root := rfl
@[simp] theorem abortOut_alive (s : State) : (abortOut s).alive = s.alive := rfl
@[simp] theorem abortOut_code (s : State) : (abortOut s).code = s.code := rfl
@[simp] theorem abortOut_codeValid (s : State) : (abortOut s).codeValid = s.codeValid := rfl
@[simp] theorem abortOut_seen (s : State) : (abortOut s).seen = s.seen := rfl
@[simp] theorem abortOut_intCnt (s : State) : (abortOut s).intCnt = s.intCnt := rfl
@[simp] theorem abortOut_cur (s : State) : (abortOut s).cur = s.cur := rfl
@[simp] theorem abortOut_rdByte (s : State) : (abortOut s).rdByte = s.rdByte := rfl
@[simp] theorem abortOut_rdCnt (s : State) : (abortOut s).rdCnt = s.rdCnt := rfl
@[simp] theorem abortOut_stack (s : State) : (abortOut s).stack = s.stack := rfl
@[simp] theorem abortOut_ret (s : State) : (abortOut s).ret = s.ret := rfl
@[simp] theorem abortOut_fresh (s : State) : (abortOut s).fresh = s.fresh := rfl
@[simp] theorem abortOut_src (s : State) : (abortOut s).src = s.src := rfl
@[simp] theorem abortOut_pos (s : State) : (abortOut s).pos = s.pos := rfl
@[simp] theorem abortOut_out (s : State) : (abortOut s).out = s.out := rfl
@[simp] theorem abortOut_host (s : State) : (abortOut s).host = s.host := rfl
@[simp] theorem abortOut_wrAcc (s : State) : (abortOut s).wrAcc = 0 := rfl
@[simp] theorem abortOut_wrCnt (s : State) : (abortOut s).wrCnt = 0 := rfl
@[simp] theorem abortOut_snk (s : State) : (abortOut s).snk = .aborted := rfl
@[simp] theorem abortOut_trace (s : State) : (abortOut s).trace = s.trace ++ [.snkAbort] := rfl

/-! ### rewindIn -/

@[simp] theorem rewindIn_par (s : State) : (rewindIn s).par = s.par := rfl
@[simp] theorem rewindIn_phase (s : State) : (rewindIn s).phase = s.phase := rfl
@[simp] theorem rewindIn_micro (s : State) : (rewindIn s).micro = s.micro := rfl
@[simp] theorem rewindIn_err (s : State) : (rewindIn s).err = s.err := rfl
@[simp] theorem rewindIn_mode (s : State) : (rewindIn s).mode = s.mode := rfl
@[simp] theorem rewindIn_freq (s : State) : (rewindIn s).freq = s.freq := rfl
@[simp] theorem rewindIn_total (s : State) : (rewindIn s).total = s.total := rfl
@[simp] theorem rewindIn_node (s : State) : (rewindIn s).node = s.node := rfl
@[simp] theorem rewindIn_nodeCnt (s : State) : (rewindIn s).nodeCnt = s.nodeCnt := rfl
@[simp] theorem rewindIn_root (s : State) : (rewindIn s).root = s.root := rfl
@[simp] theorem rewindIn_alive (s : State) : (rewindIn s).alive = s.alive := rfl
@[simp] theorem rewindIn_code (s : State) : (rewindIn s).code = s.code := rfl
@[simp] theorem rewindIn_codeValid (s : State) : (rewindIn s).codeValid = s.codeValid := rfl
@[simp] theorem rewindIn_seen (s : State) : (rewindIn s).seen = s.seen := rfl
@[simp] theorem rewindIn_intCnt (s : State) : (rewindIn s).intCnt = s.intCnt := rfl
@[simp] theorem rewindIn_cur (s : State) : (rewindIn s).cur = s.cur := rfl
@[simp] theorem rewindIn_wrAcc (s : State) : (rewindIn s).wrAcc = s.wrAcc := rfl
@[simp] theorem rewindIn_wrCnt (s : State) : (rewindIn s).wrCnt = s.wrCnt := rfl
@[simp] theorem rewindIn_rdByte (s : State) : (rewindIn s).rdByte = s.rdByte := rfl
@[simp] theorem rewindIn_stack (s : State) : (rewindIn s).stack = s.stack := rfl
@[simp] theorem rewindIn_ret (s : State) : (rewindIn s).ret = s.ret := rfl
@[simp] theorem rewindIn_fresh (s : State) : (rewindIn s).fresh = s.fresh := rfl
@[simp] theorem rewindIn_src (s : State) : (rewindIn s).src = s.src := rfl
@[simp] theorem rewindIn_out (s : State) : (rewindIn s).out = s.out := rfl
@[simp] theorem rewindIn_snk (s : State) : (rewindIn s).snk = s.snk := rfl
@[simp] theorem rewindIn_host (s : State) : (rewindIn s).host = s.host := rfl
@[simp] theorem rewindIn_pos (s : State) : (rewindIn s).pos = 0 := rfl
@[simp] theorem rewindIn_rdCnt (s : State) : (rewindIn s).rdCnt = 0 := rfl
@[simp] theorem rewindIn_trace (s : State) : (rewindIn s).trace = s.trace ++ [.srcRewind] := rfl

/-! ### setNode -/

@[simp] theorem setNode_par (i : NodeIx) (x : Node) (s : State) : (setNode i x s).par = s.par := rfl
@[simp] theorem setNode_phase (i : NodeIx) (x : Node) (s : State) : (setNode i x s).phase = s.phase := rfl
@[simp] theorem setNode_micro (i : NodeIx) (x : Node) (s : State) : (setNode i x s).micro = s.micro := rfl
@[simp] theorem setNode_err (i : NodeIx) (x : Node) (s : State) : (setNode i x s).err = s.err := rfl
@[simp] theorem setNode_mode (i : NodeIx) (x : Node) (s : State) : (setNode i x s).mode = s.mode := rfl
@[simp] theorem setNode_freq (i : NodeIx) (x : Node) (s : State) : (setNode i x s).freq = s.freq := rfl
@[simp] theorem setNode_total (i : NodeIx) (x : Node) (s : State) : (setNode i x s).total = s.total := rfl
@[simp] theorem setNode_nodeCnt (i : NodeIx) (x : Node) (s : State) : (setNode i x s).nodeCnt = s.nodeCnt := rfl
@[simp] theorem setNode_root (i : NodeIx) (x : Node) (s : State) : (setNode i x s).root = s.root := rfl
@[simp] theorem setNode_alive (i : NodeIx) (x : Node) (s : State) : (setNode i x s).alive = s.alive := rfl
@[simp] theorem setNode_code (i : NodeIx) (x : Node) (s : State) : (setNode i x s).code = s.code := rfl
@[simp] theorem setNode_codeValid (i : NodeIx) (x : Node) (s : State) : (setNode i x s).codeValid = s.codeValid := rfl
@[simp] theorem setNode_seen (i : NodeIx) (x : Node) (s : State) : (setNode i x s).seen = s.seen := rfl
@[simp] theorem setNode_intCnt (i : NodeIx) (x : Node) (s : State) : (setNode i x s).intCnt = s.intCnt := rfl
@[simp] theorem setNode_cur (i : NodeIx) (x : Node) (s : State) : (setNode i x s).cur = s.cur := rfl
@[simp] theorem setNode_wrAcc (i : NodeIx) (x : Node) (s : State) : (setNode i x s).wrAcc = s.wrAcc := rfl
@[simp] theorem setNode_wrCnt (i : NodeIx) (x : Node) (s : State) : (setNode i x s).wrCnt = s.wrCnt := rfl
@[simp] theorem setNode_rdByte (i : NodeIx) (x : Node) (s : State) : (setNode i x s).rdByte = s.rdByte := rfl
@[simp] theorem setNode_rdCnt (i : NodeIx) (x : Node) (s : State) : (setNode i x s).rdCnt = s.rdCnt := rfl
@[simp] theorem setNode_stack (i : NodeIx) (x : Node) (s : State) : (setNode i x s).stack = s.stack := rfl
@[simp] theorem setNode_ret (i : NodeIx) (x : Node) (s : State) : (setNode i x s).ret = s.ret := rfl
@[simp] theorem setNode_fresh (i : NodeIx) (x : Node) (s : State) : (setNode i x s).fresh = s.fresh := rfl
@[simp] theorem setNode_src (i : NodeIx) (x : Node) (s : State) : (setNode i x s).src = s.src := rfl
@[simp] theorem setNode_pos (i : NodeIx) (x : Node) (s : State) : (setNode i x s).pos = s.pos := rfl
@[simp] theorem setNode_out (i : NodeIx) (x : Node) (s : State) : (setNode i x s).out = s.out := rfl
@[simp] theorem setNode_snk (i : NodeIx) (x : Node) (s : State) : (setNode i x s).snk = s.snk := rfl
@[simp] theorem setNode_trace (i : NodeIx) (x : Node) (s : State) : (setNode i x s).trace = s.trace := rfl
@[simp] theorem setNode_host (i : NodeIx) (x : Node) (s : State) : (setNode i x s).host = s.host := rfl
@[simp] theorem setNode_node (i : NodeIx) (x : Node) (s : State) : (setNode i x s).node = s.node.set i.val x i.isLt := rfl

/-! ### setAlive -/

@[simp] theorem setAlive_par (i : NodeIx) (b : Bool) (s : State) : (setAlive i b s).par = s.par := rfl
@[simp] theorem setAlive_phase (i : NodeIx) (b : Bool) (s : State) : (setAlive i b s).phase = s.phase := rfl
@[simp] theorem setAlive_micro (i : NodeIx) (b : Bool) (s : State) : (setAlive i b s).micro = s.micro := rfl
@[simp] theorem setAlive_err (i : NodeIx) (b : Bool) (s : State) : (setAlive i b s).err = s.err := rfl
@[simp] theorem setAlive_mode (i : NodeIx) (b : Bool) (s : State) : (setAlive i b s).mode = s.mode := rfl
@[simp] theorem setAlive_freq (i : NodeIx) (b : Bool) (s : State) : (setAlive i b s).freq = s.freq := rfl
@[simp] theorem setAlive_total (i : NodeIx) (b : Bool) (s : State) : (setAlive i b s).total = s.total := rfl
@[simp] theorem setAlive_node (i : NodeIx) (b : Bool) (s : State) : (setAlive i b s).node = s.node := rfl
@[simp] theorem setAlive_nodeCnt (i : NodeIx) (b : Bool) (s : State) : (setAlive i b s).nodeCnt = s.nodeCnt := rfl
@[simp] theorem setAlive_root (i : NodeIx) (b : Bool) (s : State) : (setAlive i b s).root = s.root := rfl
@[simp] theorem setAlive_code (i : NodeIx) (b : Bool) (s : State) : (setAlive i b s).code = s.code := rfl
@[simp] theorem setAlive_codeValid (i : NodeIx) (b : Bool) (s : State) : (setAlive i b s).codeValid = s.codeValid := rfl
@[simp] theorem setAlive_seen (i : NodeIx) (b : Bool) (s : State) : (setAlive i b s).seen = s.seen := rfl
@[simp] theorem setAlive_intCnt (i : NodeIx) (b : Bool) (s : State) : (setAlive i b s).intCnt = s.intCnt := rfl
@[simp] theorem setAlive_cur (i : NodeIx) (b : Bool) (s : State) : (setAlive i b s).cur = s.cur := rfl
@[simp] theorem setAlive_wrAcc (i : NodeIx) (b : Bool) (s : State) : (setAlive i b s).wrAcc = s.wrAcc := rfl
@[simp] theorem setAlive_wrCnt (i : NodeIx) (b : Bool) (s : State) : (setAlive i b s).wrCnt = s.wrCnt := rfl
@[simp] theorem setAlive_rdByte (i : NodeIx) (b : Bool) (s : State) : (setAlive i b s).rdByte = s.rdByte := rfl
@[simp] theorem setAlive_rdCnt (i : NodeIx) (b : Bool) (s : State) : (setAlive i b s).rdCnt = s.rdCnt := rfl
@[simp] theorem setAlive_stack (i : NodeIx) (b : Bool) (s : State) : (setAlive i b s).stack = s.stack := rfl
@[simp] theorem setAlive_ret (i : NodeIx) (b : Bool) (s : State) : (setAlive i b s).ret = s.ret := rfl
@[simp] theorem setAlive_fresh (i : NodeIx) (b : Bool) (s : State) : (setAlive i b s).fresh = s.fresh := rfl
@[simp] theorem setAlive_src (i : NodeIx) (b : Bool) (s : State) : (setAlive i b s).src = s.src := rfl
@[simp] theorem setAlive_pos (i : NodeIx) (b : Bool) (s : State) : (setAlive i b s).pos = s.pos := rfl
@[simp] theorem setAlive_out (i : NodeIx) (b : Bool) (s : State) : (setAlive i b s).out = s.out := rfl
@[simp] theorem setAlive_snk (i : NodeIx) (b : Bool) (s : State) : (setAlive i b s).snk = s.snk := rfl
@[simp] theorem setAlive_trace (i : NodeIx) (b : Bool) (s : State) : (setAlive i b s).trace = s.trace := rfl
@[simp] theorem setAlive_host (i : NodeIx) (b : Bool) (s : State) : (setAlive i b s).host = s.host := rfl
@[simp] theorem setAlive_alive (i : NodeIx) (b : Bool) (s : State) : (setAlive i b s).alive = s.alive.set i.val b i.isLt := rfl

/-! ### goto -/

@[simp] theorem goto_par (p : Phase) (s : State) : (goto p s).par = s.par := rfl
@[simp] theorem goto_err (p : Phase) (s : State) : (goto p s).err = s.err := rfl
@[simp] theorem goto_mode (p : Phase) (s : State) : (goto p s).mode = s.mode := rfl
@[simp] theorem goto_freq (p : Phase) (s : State) : (goto p s).freq = s.freq := rfl
@[simp] theorem goto_total (p : Phase) (s : State) : (goto p s).total = s.total := rfl
@[simp] theorem goto_node (p : Phase) (s : State) : (goto p s).node = s.node := rfl
@[simp] theorem goto_nodeCnt (p : Phase) (s : State) : (goto p s).nodeCnt = s.nodeCnt := rfl
@[simp] theorem goto_root (p : Phase) (s : State) : (goto p s).root = s.root := rfl
@[simp] theorem goto_alive (p : Phase) (s : State) : (goto p s).alive = s.alive := rfl
@[simp] theorem goto_code (p : Phase) (s : State) : (goto p s).code = s.code := rfl
@[simp] theorem goto_codeValid (p : Phase) (s : State) : (goto p s).codeValid = s.codeValid := rfl
@[simp] theorem goto_seen (p : Phase) (s : State) : (goto p s).seen = s.seen := rfl
@[simp] theorem goto_intCnt (p : Phase) (s : State) : (goto p s).intCnt = s.intCnt := rfl
@[simp] theorem goto_cur (p : Phase) (s : State) : (goto p s).cur = s.cur := rfl
@[simp] theorem goto_wrAcc (p : Phase) (s : State) : (goto p s).wrAcc = s.wrAcc := rfl
@[simp] theorem goto_wrCnt (p : Phase) (s : State) : (goto p s).wrCnt = s.wrCnt := rfl
@[simp] theorem goto_rdByte (p : Phase) (s : State) : (goto p s).rdByte = s.rdByte := rfl
@[simp] theorem goto_rdCnt (p : Phase) (s : State) : (goto p s).rdCnt = s.rdCnt := rfl
@[simp] theorem goto_stack (p : Phase) (s : State) : (goto p s).stack = s.stack := rfl
@[simp] theorem goto_fresh (p : Phase) (s : State) : (goto p s).fresh = s.fresh := rfl
@[simp] theorem goto_src (p : Phase) (s : State) : (goto p s).src = s.src := rfl
@[simp] theorem goto_pos (p : Phase) (s : State) : (goto p s).pos = s.pos := rfl
@[simp] theorem goto_out (p : Phase) (s : State) : (goto p s).out = s.out := rfl
@[simp] theorem goto_snk (p : Phase) (s : State) : (goto p s).snk = s.snk := rfl
@[simp] theorem goto_trace (p : Phase) (s : State) : (goto p s).trace = s.trace := rfl
@[simp] theorem goto_host (p : Phase) (s : State) : (goto p s).host = s.host := rfl
@[simp] theorem goto_phase (p : Phase) (s : State) : (goto p s).phase = p := rfl
@[simp] theorem goto_micro (p : Phase) (s : State) : (goto p s).micro = .start := rfl
@[simp] theorem goto_ret (p : Phase) (s : State) : (goto p s).ret = .none := rfl

/-! ### srcNext -/

@[simp] theorem srcNext_par (s : State) : (srcNext s).2.par = s.par := by unfold srcNext; split <;> rfl
@[simp] theorem srcNext_phase (s : State) : (srcNext s).2.phase = s.phase := by unfold srcNext; split <;> rfl
@[simp] theorem srcNext_micro (s : State) : (srcNext s).2.micro = s.micro := by unfold srcNext; split <;> rfl
@[simp] theorem srcNext_err (s : State) : (srcNext s).2.err = s.err := by unfold srcNext; split <;> rfl
@[simp] theorem srcNext_mode (s : State) : (srcNext s).2.mode = s.mode := by unfold srcNext; split <;> rfl
@[simp] theorem srcNext_freq (s : State) : (srcNext s).2.freq = s.freq := by unfold srcNext; split <;> rfl
@[simp] theorem srcNext_total (s : State) : (srcNext s).2.total = s.total := by unfold srcNext; split <;> rfl
@[simp] theorem srcNext_node (s : State) : (srcNext s).2.node = s.node := by unfold srcNext; split <;> rfl
@[simp] theorem srcNext_nodeCnt (s : State) : (srcNext s).2.nodeCnt = s.nodeCnt := by unfold srcNext; split <;> rfl
@[simp] theorem srcNext_root (s : State) : (srcNext s).2.root = s.root := by unfold srcNext; split <;> rfl
@[simp] theorem srcNext_alive (s : State) : (srcNext s).2.alive = s.alive := by unfold srcNext; split <;> rfl
@[simp] theorem srcNext_code (s : State) : (srcNext s).2.code = s.code := by unfold srcNext; split <;> rfl
@[simp] theorem srcNext_codeValid (s : State) : (srcNext s).2.codeValid = s.codeValid := by unfold srcNext; split <;> rfl
@[simp] theorem srcNext_seen (s : State) : (srcNext s).2.seen = s.seen := by unfold srcNext; split <;> rfl
@[simp] theorem srcNext_intCnt (s : State) : (srcNext s).2.intCnt = s.intCnt := by unfold srcNext; split <;> rfl
@[simp] theorem srcNext_cur (s : State) : (srcNext s).2.cur = s.cur := by unfold srcNext; split <;> rfl
@[simp] theorem srcNext_wrAcc (s : State) : (srcNext s).2.wrAcc = s.wrAcc := by unfold srcNext; split <;> rfl
@[simp] theorem srcNext_wrCnt (s : State) : (srcNext s).2.wrCnt = s.wrCnt := by unfold srcNext; split <;> rfl
@[simp] theorem srcNext_rdByte (s : State) : (srcNext s).2.rdByte = s.rdByte := by unfold srcNext; split <;> rfl
@[simp] theorem srcNext_rdCnt (s : State) : (srcNext s).2.rdCnt = s.rdCnt := by unfold srcNext; split <;> rfl
@[simp] theorem srcNext_stack (s : State) : (srcNext s).2.stack = s.stack := by unfold srcNext; split <;> rfl
@[simp] theorem srcNext_ret (s : State) : (srcNext s).2.ret = s.ret := by unfold srcNext; split <;> rfl
@[simp] theorem srcNext_fresh (s : State) : (srcNext s).2.fresh = s.fresh := by unfold srcNext; split <;> rfl
@[simp] theorem srcNext_src (s : State) : (srcNext s).2.src = s.src := by unfold srcNext; split <;> rfl
@[simp] theorem srcNext_out (s : State) : (srcNext s).2.out = s.out := by unfold srcNext; split <;> rfl
@[simp] theorem srcNext_snk (s : State) : (srcNext s).2.snk = s.snk := by unfold srcNext; split <;> rfl
@[simp] theorem srcNext_host (s : State) : (srcNext s).2.host = s.host := by unfold srcNext; split <;> rfl

/-! ### putBit -/

@[simp] theorem putBit_par (b : Bool) (s : State) : (putBit b s).par = s.par := by unfold putBit; dsimp only; split <;> rfl
@[simp] theorem putBit_phase (b : Bool) (s : State) : (putBit b s).phase = s.phase := by unfold putBit; dsimp only; split <;> rfl
@[simp] theorem putBit_micro (b : Bool) (s : State) : (putBit b s).micro = s.micro := by unfold putBit; dsimp only; split <;> rfl
@[simp] theorem putBit_err (b : Bool) (s : State) : (putBit b s).err = s.err := by unfold putBit; dsimp only; split <;> rfl
@[simp] theorem putBit_mode (b : Bool) (s : State) : (putBit b s).mode = s.mode := by unfold putBit; dsimp only; split <;> rfl
@[simp] theorem putBit_freq (b : Bool) (s : State) : (putBit b s).freq = s.freq := by unfold putBit; dsimp only; split <;> rfl
@[simp] theorem putBit_total (b : Bool) (s : State) : (putBit b s).total = s.total := by unfold putBit; dsimp only; split <;> rfl
@[simp] theorem putBit_node (b : Bool) (s : State) : (putBit b s).node = s.node := by unfold putBit; dsimp only; split <;> rfl
@[simp] theorem putBit_nodeCnt (b : Bool) (s : State) : (putBit b s).nodeCnt = s.nodeCnt := by unfold putBit; dsimp only; split <;> rfl
@[simp] theorem putBit_root (b : Bool) (s : State) : (putBit b s).root = s.root := by unfold putBit; dsimp only; split <;> rfl
@[simp] theorem putBit_alive (b : Bool) (s : State) : (putBit b s).alive = s.alive := by unfold putBit; dsimp only; split <;> rfl
@[simp] theorem putBit_code (b : Bool) (s : State) : (putBit b s).code = s.code := by unfold putBit; dsimp only; split <;> rfl
@[simp] theorem putBit_codeValid (b : Bool) (s : State) : (putBit b s).codeValid = s.codeValid := by unfold putBit; dsimp only; split <;> rfl
@[simp] theorem putBit_seen (b : Bool) (s : State) : (putBit b s).seen = s.seen := by unfold putBit; dsimp only; split <;> rfl
@[simp] theorem putBit_intCnt (b : Bool) (s : State) : (putBit b s).intCnt = s.intCnt := by unfold putBit; dsimp only; split <;> rfl
@[simp] theorem putBit_cur (b : Bool) (s : State) : (putBit b s).cur = s.cur := by unfold putBit; dsimp only; split <;> rfl
@[simp] theorem putBit_rdByte (b : Bool) (s : State) : (putBit b s).rdByte = s.rdByte := by unfold putBit; dsimp only; split <;> rfl
@[simp] theorem putBit_rdCnt (b : Bool) (s : State) : (putBit b s).rdCnt = s.rdCnt := by unfold putBit; dsimp only; split <;> rfl
@[simp] theorem putBit_stack (b : Bool) (s : State) : (putBit b s).stack = s.stack := by unfold putBit; dsimp only; split <;> rfl
@[simp] theorem putBit_ret (b : Bool) (s : State) : (putBit b s).ret = s.ret := by unfold putBit; dsimp only; split <;> rfl
@[simp] theorem putBit_src (b : Bool) (s : State) : (putBit b s).src = s.src := by unfold putBit; dsimp only; split <;> rfl
@[simp] theorem putBit_pos (b : Bool) (s : State) : (putBit b s).pos = s.pos := by unfold putBit; dsimp only; split <;> rfl
@[simp] theorem putBit_snk (b : Bool) (s : State) : (putBit b s).snk = s.snk := by unfold putBit; dsimp only; split <;> rfl
@[simp] theorem putBit_host (b : Bool) (s : State) : (putBit b s).host = s.host := by unfold putBit; dsimp only; split <;> rfl

/-! ### closeOut -/

@[simp] theorem closeOut_par (s : State) : (closeOut s).par = s.par := by unfold closeOut; split <;> rfl
@[simp] theorem closeOut_phase (s : State) : (closeOut s).phase = s.phase := by unfold closeOut; split <;> rfl
@[simp] theorem closeOut_micro (s : State) : (closeOut s).micro = s.micro := by unfold closeOut; split <;> rfl
@[simp] theorem closeOut_err (s : State) : (closeOut s).err = s.err := by unfold closeOut; split <;> rfl
@[simp] theorem closeOut_mode (s : State) : (closeOut s).mode = s.mode := by unfold closeOut; split <;> rfl
@[simp] theorem closeOut_freq (s : State) : (closeOut s).freq = s.freq := by unfold closeOut; split <;> rfl
@[simp] theorem closeOut_total (s : State) : (closeOut s).total = s.total := by unfold closeOut; split <;> rfl
@[simp] theorem closeOut_node (s : State) : (closeOut s).node = s.node := by unfold closeOut; split <;> rfl
@[simp] theorem closeOut_nodeCnt (s : State) : (closeOut s).nodeCnt = s.nodeCnt := by unfold closeOut; split <;> rfl
@[simp] theorem closeOut_root (s : State) : (closeOut s).root = s.root := by unfold closeOut; split <;> rfl
@[simp] theorem closeOut_alive (s : State) : (closeOut s).alive = s.alive := by unfold closeOut; split <;> rfl
@[simp] theorem closeOut_code (s : State) : (closeOut s).code = s.code := by unfold closeOut; split <;> rfl
@[simp] theorem closeOut_codeValid (s : State) : (closeOut s).codeValid = s.codeValid := by unfold closeOut; split <;> rfl
@[simp] theorem closeOut_seen (s : State) : (closeOut s).seen = s.seen := by unfold closeOut; split <;> rfl
@[simp] theorem closeOut_intCnt (s : State) : (closeOut s).intCnt = s.intCnt := by unfold closeOut; split <;> rfl
@[simp] theorem closeOut_cur (s : State) : (closeOut s).cur = s.cur := by unfold closeOut; split <;> rfl
@[simp] theorem closeOut_rdByte (s : State) : (closeOut s).rdByte = s.rdByte := by unfold closeOut; split <;> rfl
@[simp] theorem closeOut_rdCnt (s : State) : (closeOut s).rdCnt = s.rdCnt := by unfold closeOut; split <;> rfl
@[simp] theorem closeOut_stack (s : State) : (closeOut s).stack = s.stack := by unfold closeOut; split <;> rfl
@[simp] theorem closeOut_ret (s : State) : (closeOut s).ret = s.ret := by unfold closeOut; split <;> rfl
@[simp] theorem closeOut_src (s : State) : (closeOut s).src = s.src := by unfold closeOut; split <;> rfl
@[simp] theorem closeOut_pos (s : State) : (closeOut s).pos = s.pos := by unfold closeOut; split <;> rfl
@[simp] theorem closeOut_host (s : State) : (closeOut s).host = s.host := by unfold closeOut; split <;> rfl
@[simp] theorem closeOut_snk (s : State) : (closeOut s).snk = .closed := by unfold closeOut; split <;> rfl

/-! ### raise -/

@[simp] theorem raise_par (e : ErrKind) (s : State) : (raise e s).par = s.par := by unfold raise; split <;> rfl
@[simp] theorem raise_mode (e : ErrKind) (s : State) : (raise e s).mode = s.mode := by unfold raise; split <;> rfl
@[simp] theorem raise_freq (e : ErrKind) (s : State) : (raise e s).freq = s.freq := by unfold raise; split <;> rfl
@[simp] theorem raise_total (e : ErrKind) (s : State) : (raise e s).total = s.total := by unfold raise; split <;> rfl
@[simp] theorem raise_node (e : ErrKind) (s : State) : (raise e s).node = s.node := by unfold raise; split <;> rfl
@[simp] theorem raise_nodeCnt (e : ErrKind) (s : State) : (raise e s).nodeCnt = s.nodeCnt := by unfold raise; split <;> rfl
@[simp] theorem raise_root (e : ErrKind) (s : State) : (raise e s).root = s.root := by unfold raise; split <;> rfl
@[simp] theorem raise_alive (e : ErrKind) (s : State) : (raise e s).alive = s.alive := by unfold raise; split <;> rfl
@[simp] theorem raise_code (e : ErrKind) (s : State) : (raise e s).code = s.code := by unfold raise; split <;> rfl
@[simp] theorem raise_codeValid (e : ErrKind) (s : State) : (raise e s).codeValid = s.codeValid := by unfold raise; split <;> rfl
@[simp] theorem raise_seen (e : ErrKind) (s : State) : (raise e s).seen = s.seen := by unfold raise; split <;> rfl
@[simp] theorem raise_intCnt (e : ErrKind) (s : State) : (raise e s).intCnt = s.intCnt := by unfold raise; split <;> rfl
@[simp] theorem raise_cur (e : ErrKind) (s : State) : (raise e s).cur = s.cur := by unfold raise; split <;> rfl
@[simp] theorem raise_rdByte (e : ErrKind) (s : State) : (raise e s).rdByte = s.rdByte := by unfold raise; split <;> rfl
@[simp] theorem raise_rdCnt (e : ErrKind) (s : State) : (raise e s).rdCnt = s.rdCnt := by unfold raise; split <;> rfl
@[simp] theorem raise_fresh (e : ErrKind) (s : State) : (raise e s).fresh = s.fresh := by unfold raise; split <;> rfl
@[simp] theorem raise_src (e : ErrKind) (s : State) : (raise e s).src = s.src := by unfold raise; split <;> rfl
@[simp] theorem raise_pos (e : ErrKind) (s : State) : (raise e s).pos = s.pos := by unfold raise; split <;> rfl
@[simp] theorem raise_out (e : ErrKind) (s : State) : (raise e s).out = s.out := by unfold raise; split <;> rfl
@[simp] theorem raise_host (e : ErrKind) (s : State) : (raise e s).host = s.host := by unfold raise; split <;> rfl
@[simp] theorem raise_phase (e : ErrKind) (s : State) : (raise e s).phase = .error := by unfold raise; split <;> rfl
@[simp] theorem raise_micro (e : ErrKind) (s : State) : (raise e s).micro = .start := by unfold raise; split <;> rfl
@[simp] theorem raise_ret (e : ErrKind) (s : State) : (raise e s).ret = .none := by unfold raise; split <;> rfl
@[simp] theorem raise_err (e : ErrKind) (s : State) : (raise e s).err = errCode e := by unfold raise; split <;> rfl
@[simp] theorem raise_stack (e : ErrKind) (s : State) : (raise e s).stack = [] := by unfold raise; split <;> rfl

/-! ### getBit -/

@[simp] theorem getBit_par (s : State) : (getBit s).2.par = s.par := by
  unfold getBit
  split
  · rfl
  · have h := srcNext_par s
    split <;> simp_all
@[simp] theorem getBit_phase (s : State) : (getBit s).2.phase = s.phase := by
  unfold getBit
  split
  · rfl
  · have h := srcNext_phase s
    split <;> simp_all
@[simp] theorem getBit_micro (s : State) : (getBit s).2.micro = s.micro := by
  unfold getBit
  split
  · rfl
  · have h := srcNext_micro s
    split <;> simp_all
@[simp] theorem getBit_err (s : State) : (getBit s).2.err = s.err := by
  unfold getBit
  split
  · rfl
  · have h := srcNext_err s
    split <;> simp_all
@[simp] theorem getBit_mode (s : State) : (getBit s).2.mode = s.mode := by
  unfold getBit
  split
  · rfl
  · have h := srcNext_mode s
    split <;> simp_all
@[simp] theorem getBit_freq (s : State) : (getBit s).2.freq = s.freq := by
  unfold getBit
  split
  · rfl
  · have h := srcNext_freq s
    split <;> simp_all
@[simp] theorem getBit_total (s : State) : (getBit s).2.total = s.total := by
  unfold getBit
  split
  · rfl
  · have h := srcNext_total s
    split <;> simp_all
@[simp] theorem getBit_node (s : State) : (getBit s).2.node = s.node := by
  unfold getBit
  split
  · rfl
  · have h := srcNext_node s
    split <;> simp_all
@[simp] theorem getBit_nodeCnt (s : State) : (getBit s).2.nodeCnt = s.nodeCnt := by
  unfold getBit
  split
  · rfl
  · have h := srcNext_nodeCnt s
    split <;> simp_all
@[simp] theorem getBit_root (s : State) : (getBit s).2.root = s.root := by
  unfold getBit
  split
  · rfl
  · have h := srcNext_root s
    split <;> simp_all
@[simp] theorem getBit_alive (s : State) : (getBit s).2.alive = s.alive := by
  unfold getBit
  split
  · rfl
  · have h := srcNext_alive s
    split <;> simp_all
@[simp] theorem getBit_code (s : State) : (getBit s).2.code = s.code := by
  unfold getBit
  split
  · rfl
  · have h := srcNext_code s
    split <;> simp_all
@[simp] theorem getBit_codeValid (s : State) : (getBit s).2.codeValid = s.codeValid := by
  unfold getBit
  split
  · rfl
  · have h := srcNext_codeValid s
    split <;> simp_all
@[simp] theorem getBit_seen (s : State) : (getBit s).2.seen = s.seen := by
  unfold getBit
  split
  · rfl
  · have h := srcNext_seen s
    split <;> simp_all
@[simp] theorem getBit_intCnt (s : State) : (getBit s).2.intCnt = s.intCnt := by
  unfold getBit
  split
  · rfl
  · have h := srcNext_intCnt s
    split <;> simp_all
@[simp] theorem getBit_cur (s : State) : (getBit s).2.cur = s.cur := by
  unfold getBit
  split
  · rfl
  · have h := srcNext_cur s
    split <;> simp_all
@[simp] theorem getBit_wrAcc (s : State) : (getBit s).2.wrAcc = s.wrAcc := by
  unfold getBit
  split
  · rfl
  · have h := srcNext_wrAcc s
    split <;> simp_all
@[simp] theorem getBit_wrCnt (s : State) : (getBit s).2.wrCnt = s.wrCnt := by
  unfold getBit
  split
  · rfl
  · have h := srcNext_wrCnt s
    split <;> simp_all
@[simp] theorem getBit_stack (s : State) : (getBit s).2.stack = s.stack := by
  unfold getBit
  split
  · rfl
  · have h := srcNext_stack s
    split <;> simp_all
@[simp] theorem getBit_ret (s : State) : (getBit s).2.ret = s.ret := by
  unfold getBit
  split
  · rfl
  · have h := srcNext_ret s
    split <;> simp_all
@[simp] theorem getBit_fresh (s : State) : (getBit s).2.fresh = s.fresh := by
  unfold getBit
  split
  · rfl
  · have h := srcNext_fresh s
    split <;> simp_all
@[simp] theorem getBit_src (s : State) : (getBit s).2.src = s.src := by
  unfold getBit
  split
  · rfl
  · have h := srcNext_src s
    split <;> simp_all
@[simp] theorem getBit_out (s : State) : (getBit s).2.out = s.out := by
  unfold getBit
  split
  · rfl
  · have h := srcNext_out s
    split <;> simp_all
@[simp] theorem getBit_snk (s : State) : (getBit s).2.snk = s.snk := by
  unfold getBit
  split
  · rfl
  · have h := srcNext_snk s
    split <;> simp_all
@[simp] theorem getBit_host (s : State) : (getBit s).2.host = s.host := by
  unfold getBit
  split
  · rfl
  · have h := srcNext_host s
    split <;> simp_all

end Sys2Proof.Laws
end

