-- ==== Sys2Proof/Laws/Channel.lean ====
section
/-! SUPPORT. What the bit channel's shared operations can do (40_bitchannel.md): which fields they may
change, how strings compose, and how much of the source a read takes. -/

namespace Sys2Proof.Laws

open Sys2Proof.Machine

/-! ### Packer -/

@[simp] theorem putBits_nil (s : State) : putBits [] s = s := rfl

@[simp] theorem putBits_cons (b : Bool) (l : BitString) (s : State) :
    putBits (b :: l) s = putBits l (putBit b s) := rfl

theorem putBits_append (l m : BitString) (s : State) :
    putBits (l ++ m) s = putBits m (putBits l s) := by
  simp [putBits, List.foldl_append]

/-- All a PUTBIT can change (R120). -/
theorem putBit_frame (b : Bool) (s : State) :
    putBit b s = { s with
      wrAcc := (putBit b s).wrAcc, wrCnt := (putBit b s).wrCnt, out := (putBit b s).out,
      fresh := (putBit b s).fresh, trace := (putBit b s).trace } := by
  unfold putBit; dsimp only; split <;> rfl

/-- All a sequence of PUTBITs can change (R120, R121). -/
theorem putBits_frame (l : BitString) (s : State) :
    putBits l s = { s with
      wrAcc := (putBits l s).wrAcc, wrCnt := (putBits l s).wrCnt, out := (putBits l s).out,
      fresh := (putBits l s).fresh, trace := (putBits l s).trace } := by
  induction l generalizing s with
  | nil => rfl
  | cons b l ih =>
    rw [putBits_cons]
    exact (ih _).trans (by simp)

/-- The count of pending bits goes round the byte (R120). -/
theorem putBit_wrCnt (b : Bool) (s : State) :
    (putBit b s).wrCnt.val = (s.wrCnt.val + 1) % 8 := by
  have := s.wrCnt.isLt
  unfold putBit
  dsimp only
  split
  · simp only; omega
  · have : s.wrCnt.val = 7 := by omega
    simp [this]

theorem putBits_wrCnt (l : BitString) (s : State) :
    (putBits l s).wrCnt.val = (s.wrCnt.val + l.length) % 8 := by
  induction l generalizing s with
  | nil => simp [Nat.mod_eq_of_lt s.wrCnt.isLt]
  | cons b l ih => rw [putBits_cons, ih, putBit_wrCnt, List.length_cons]; omega

/-- While the sink is open, what is put is appended (R61, R70 b). -/
theorem snkPut_out_opened (b : Byte) (s : State) (h : s.snk = .opened) :
    (snkPut b s).out = s.out ++ [b] := by
  simp [snkPut, h]

/-! ### Unpacker -/

/-- All a GETBIT can change (R124). -/
theorem getBit_frame (s : State) :
    (getBit s).2 = { s with
      rdByte := (getBit s).2.rdByte, rdCnt := (getBit s).2.rdCnt, pos := (getBit s).2.pos,
      trace := (getBit s).2.trace } := by
  unfold getBit srcNext
  split
  · rfl
  · rcases s.src[s.pos]? with _ | b <;> rfl

/-- All a multi-bit read can change (R125). -/
theorem getBits_frame (n : Nat) (s : State) :
    (getBits n s).2 = { s with
      rdByte := (getBits n s).2.rdByte, rdCnt := (getBits n s).2.rdCnt, pos := (getBits n s).2.pos,
      trace := (getBits n s).2.trace } := by
  induction n generalizing s with
  | zero => rfl
  | succ n ih =>
    unfold getBits
    rcases h : getBit s with ⟨_ | b, t⟩
    · simpa [h] using getBit_frame s
    · obtain rfl : (getBit s).2 = t := by rw [h]
      have h2 := ih (getBit s).2
      rcases h' : getBits n (getBit s).2 with ⟨_ | l, u⟩ <;>
        · rw [h'] at h2
          simp only [h'] at h2 ⊢
          rw [h2]
          simp

theorem readBits_snd (n : Nat) (s : State) : (readBits n s).2 = (getBits n s).2 := by
  unfold readBits
  rcases getBits n s with ⟨_ | l, u⟩ <;> rfl

/-- A read that does not meet the end delivers as many bits as asked (R125). -/
theorem getBits_length (n : Nat) (s t : State) (l : BitString) (h : getBits n s = (some l, t)) :
    l.length = n := by
  induction n generalizing s t l with
  | zero => simp [getBits] at h; simp [← h.1]
  | succ n ih =>
    unfold getBits at h
    rcases h1 : getBit s with ⟨_ | b, u⟩
    · simp [h1] at h
    · rcases h2 : getBits n u with ⟨_ | m, w⟩
      · simp [h1, h2] at h
      · simp [h1, h2] at h
        have := ih u w m h2
        simp [← h.1, this]

/-- GETBIT meets `EOF` exactly when no bit is left, and else takes one (R124). -/
theorem getBit_bitsLeft (s : State) :
    ((getBit s).1 = none ↔ bitsLeft s = 0) ∧ bitsLeft (getBit s).2 = bitsLeft s - 1 := by
  unfold getBit srcNext bitsLeft
  split
  · constructor
    · simp; omega
    · simp; omega
  · rename_i h
    rcases hb : s.src[s.pos]? with _ | b
    · have := List.getElem?_eq_none_iff.mp hb
      simp
      omega
    · have := (List.getElem?_eq_some_iff.mp hb).1
      simp
      omega

end Sys2Proof.Laws
end

