-- ==== Sys2Proof/Laws/Control.lean ====
section
/-! SUPPORT. What the shared operations of sequencing, error entry and node memory can do, said once
(R236, R27, R29), and how a step chooses (log 3, log 4). -/

namespace Sys2Proof.Laws

open Sys2Proof.Machine

/-! ### Sequencing -/

@[simp] theorem bind_ok {α β : Type} (a : α) (s : State) (f : α → State → Res β) :
    (Res.ok a s).bind f = f a s := rfl

@[simp] theorem bind_raised {α β : Type} (s : State) (f : α → State → Res β) :
    (Res.raised s).bind f = .raised s := rfl

@[simp] theorem bind_stop {α β : Type} (e : Fault) (f : α → State → Res β) :
    (Res.stop e).bind f = .stop e := rfl

theorem bind_eq_ok {α β : Type} {r : Res α} {f : α → State → Res β} {b : β} {u : State} :
    r.bind f = .ok b u ↔ ∃ a t, r = .ok a t ∧ f a t = .ok b u := by
  cases r <;> simp [Res.bind]

theorem bind_eq_raised {α β : Type} {r : Res α} {f : α → State → Res β} {u : State} :
    r.bind f = .raised u ↔ r = .raised u ∨ ∃ a t, r = .ok a t ∧ f a t = .raised u := by
  cases r <;> simp [Res.bind]

/-- An operation answers a next state by ending normally or by taking an error. -/
theorem toOutcome_eq_next {α : Type} {r : Res α} {f : α → State → State} {u : State} :
    r.toOutcome f = .next u ↔ (∃ a t, r = .ok a t ∧ f a t = u) ∨ r = .raised u := by
  cases r <;> simp [Res.toOutcome]

/-! ### Error entry -/

/-- In IDLE no operation is running and nothing is aborted (R236, R238). -/
theorem raise_idle (e : ErrKind) (s : State) (h : s.phase = .idle) :
    raise e s = { s with phase := .error, micro := .start, ret := .none, err := errCode e, stack := [] } := by
  simp [raise, goto, h]

/-- Outside IDLE the pending bits are dropped and the sink is aborted (R123, R236). -/
theorem raise_working (e : ErrKind) (s : State) (h : s.phase ≠ .idle) :
    raise e s = { s with
      phase := .error, micro := .start, ret := .none, err := errCode e, stack := [],
      wrAcc := 0, wrCnt := 0, snk := .aborted, trace := s.trace ++ [.snkAbort] } := by
  simp [raise, goto, h, abortOut, snkAbort]

theorem errCode_ne_zero (e : ErrKind) : errCode e ≠ 0 := by cases e <;> decide

/-! ### Node memory -/

/-- A new node needs a free entry; it is written at `NODE_CNT`, which goes up by one (R27). -/
theorem newNode_eq_ok {x : Node} {s t : State} {n : NodeIx} :
    newNode x s = .ok n t ↔
      ∃ h : s.nodeCnt.val < 513, n = ⟨s.nodeCnt.val, h⟩ ∧
        t = { setNode n x s with nodeCnt := ⟨s.nodeCnt.val + 1, by omega⟩ } := by
  unfold newNode
  split
  · rename_i h
    constructor
    · intro e
      injection e with e1 e2
      exact ⟨h, e1.symm, by rw [← e2, ← e1]⟩
    · rintro ⟨_, rfl, rfl⟩
      rfl
  · simp_all

theorem newNode_ne_raised {x : Node} {s t : State} : newNode x s ≠ .raised t := by
  unfold newNode; split <;> simp

theorem get_set_same {α : Type} {n : Nat} (v : Vector α n) (i : Fin n) (x : α) :
    (v.set i.val x i.isLt).get i = x := by
  change (v.set i.val x i.isLt)[i.val] = x
  simp

theorem get_set_ne {α : Type} {n : Nat} (v : Vector α n) {i j : Fin n} (x : α) (h : i ≠ j) :
    (v.set i.val x i.isLt).get j = v.get j := by
  have : i.val ≠ j.val := fun e => h (Fin.ext e)
  change (v.set i.val x i.isLt)[j.val] = v[j.val]
  simp [this]

@[simp] theorem nodeAt_setNode_same (i : NodeIx) (x : Node) (s : State) : nodeAt (setNode i x s) i = x :=
  get_set_same _ _ _

theorem nodeAt_setNode_ne {i j : NodeIx} (x : Node) (s : State) (h : i ≠ j) :
    nodeAt (setNode i x s) j = nodeAt s j :=
  get_set_ne _ _ h

@[simp] theorem alive_setAlive_same (i : NodeIx) (b : Bool) (s : State) : (setAlive i b s).alive.get i = b :=
  get_set_same _ _ _

theorem alive_setAlive_ne {i j : NodeIx} (b : Bool) (s : State) (h : i ≠ j) :
    (setAlive i b s).alive.get j = s.alive.get j :=
  get_set_ne _ _ h

/-! ### The priority collection -/

theorem mem_aliveNodes {s : State} {i : NodeIx} :
    i ∈ aliveNodes s ↔ i.val < s.nodeCnt.val ∧ s.alive.get i = true := by
  simp [aliveNodes]

/-- The selection finds a node in every list that has one (R151). -/
theorem leastOf_isSome (s : State) (l : List NodeIx) (h : l ≠ []) : (leastOf s l).isSome := by
  cases l with
  | nil => exact absurd rfl h
  | cons i l =>
    unfold leastOf
    split
    · rfl
    · split <;> rfl

/-- What the selection returns is in the list (R151). -/
theorem leastOf_mem (s : State) (l : List NodeIx) (i : NodeIx) (h : leastOf s l = some i) : i ∈ l := by
  induction l generalizing i with
  | nil => simp [leastOf] at h
  | cons j l ih =>
    unfold leastOf at h
    split at h
    · simp_all
    · rename_i k hk
      split at h
      · simp only [Option.some.injEq] at h
        exact List.mem_cons_of_mem _ (h ▸ ih k hk)
      · simp_all

/-- TB.MIN returns an alive node (R151). -/
theorem minNode_alive {s : State} {i : NodeIx} (h : minNode s = some i) :
    i.val < s.nodeCnt.val ∧ s.alive.get i = true :=
  mem_aliveNodes.mp (leastOf_mem s _ i h)

/-! ### How a step chooses -/

theorem step_quiet {s : State} (h : s.host = []) : step s = controllerTurn s := by
  simp [step, turn, h]

theorem step_host {s : State} {e : HostEvent} {rest : List HostEvent} (h : s.host = e :: rest) :
    step s = hostTurn e { s with host := rest } := by
  simp [step, turn, h]

theorem controllerTurn_op {s t : State} {i : Instr} (h : fetch s = .op i t) :
    controllerTurn s = after (exec i t) (follow s) := by
  simp [controllerTurn, h]

end Sys2Proof.Laws
end

