-- ==== Sys2Proof/Laws/PerInstr.lean ====
section
/-! SUPPORT. The family `Encodable` (LAWS.json): an operation has a format exactly when it has bits, and a
well-formed one has at most 256 of them (R91 to R97, R100, R107). -/

namespace Sys2Proof.Laws.Encodable

/-- An operation has a format exactly when it has bits, and then at most 256 of them. -/
def Statement (i : Instr) : Prop :=
  (encode i).isSome = i.format.isSome ∧ (i.wf = true → ∀ b, encode i = some b → b.length ≤ 256)

theorem nop : Statement .nop := by
  refine ⟨rfl, fun _ b hb => ?_⟩
  simp only [encode, Option.some.injEq] at hb
  subst hb
  simp

theorem compress : Statement .compress := by
  refine ⟨rfl, fun _ b hb => ?_⟩
  simp only [encode, Option.some.injEq] at hb
  subst hb
  simp

theorem decompress : Statement .decompress := by
  refine ⟨rfl, fun _ b hb => ?_⟩
  simp only [encode, Option.some.injEq] at hb
  subst hb
  simp

theorem clear : Statement .clear := by
  refine ⟨rfl, fun _ b hb => ?_⟩
  simp only [encode, Option.some.injEq] at hb
  subst hb
  simp

theorem cmdReserved (c : Byte) : Statement (.cmdReserved c) := by
  refine ⟨rfl, fun _ b hb => ?_⟩
  simp only [encode, Option.some.injEq] at hb
  subst hb
  simp

theorem statusRead : Statement .statusRead := ⟨rfl, fun _ _ hb => nomatch hb⟩

theorem magic (m : BitVec 32) : Statement (.magic m) := by
  refine ⟨rfl, fun _ b hb => ?_⟩
  simp only [encode, Option.some.injEq] at hb
  subst hb
  simp

theorem nodeInternal : Statement .nodeInternal := by
  refine ⟨rfl, fun _ b hb => ?_⟩
  simp only [encode, Option.some.injEq] at hb
  subst hb
  simp

theorem nodeLeaf (v : BitVec 9) : Statement (.nodeLeaf v) := by
  refine ⟨rfl, fun _ b hb => ?_⟩
  simp only [encode, Option.some.injEq] at hb
  subst hb
  simp

theorem codeword (path : BitString) : Statement (.codeword path) := by
  refine ⟨rfl, fun h b hb => ?_⟩
  obtain rfl : path = b := by simpa [encode] using hb
  exact of_decide_eq_true h

theorem pad (p : Nat) : Statement (.pad p) := by
  refine ⟨rfl, fun h b hb => ?_⟩
  obtain rfl : List.replicate p false = b := by simpa [encode] using hb
  have : p ≤ 7 := by simpa [Instr.wf] using h
  simp only [List.length_replicate]
  omega

theorem chInit : Statement .chInit := ⟨rfl, fun _ _ hb => nomatch hb⟩

theorem putbit (b : Bool) : Statement (.putbit b) := ⟨rfl, fun _ _ hb => nomatch hb⟩

theorem writebits (n : Nat) (v : BitVec 32) : Statement (.writebits n v) := ⟨rfl, fun _ _ hb => nomatch hb⟩

theorem close : Statement .close := ⟨rfl, fun _ _ hb => nomatch hb⟩

theorem abort : Statement .abort := ⟨rfl, fun _ _ hb => nomatch hb⟩

theorem getbit : Statement .getbit := ⟨rfl, fun _ _ hb => nomatch hb⟩

theorem readbits (n : Nat) : Statement (.readbits n) := ⟨rfl, fun _ _ hb => nomatch hb⟩

theorem rewind : Statement .rewind := ⟨rfl, fun _ _ hb => nomatch hb⟩

theorem fcClear : Statement .fcClear := ⟨rfl, fun _ _ hb => nomatch hb⟩

theorem fcCount : Statement .fcCount := ⟨rfl, fun _ _ hb => nomatch hb⟩

theorem fcRun : Statement .fcRun := ⟨rfl, fun _ _ hb => nomatch hb⟩

theorem tbInit : Statement .tbInit := ⟨rfl, fun _ _ hb => nomatch hb⟩

theorem tbMin : Statement .tbMin := ⟨rfl, fun _ _ hb => nomatch hb⟩

theorem tbMerge : Statement .tbMerge := ⟨rfl, fun _ _ hb => nomatch hb⟩

theorem tbBuild : Statement .tbBuild := ⟨rfl, fun _ _ hb => nomatch hb⟩

theorem ctDerive : Statement .ctDerive := ⟨rfl, fun _ _ hb => nomatch hb⟩

theorem ctWalk (i : NodeIx) (path : BitString) : Statement (.ctWalk i path) := ⟨rfl, fun _ _ hb => nomatch hb⟩

theorem hdrSer (i : NodeIx) : Statement (.hdrSer i) := ⟨rfl, fun _ _ hb => nomatch hb⟩

theorem hdrInit : Statement .hdrInit := ⟨rfl, fun _ _ hb => nomatch hb⟩

theorem hdrDes : Statement .hdrDes := ⟨rfl, fun _ _ hb => nomatch hb⟩

theorem encSym (y : Sym) : Statement (.encSym y) := ⟨rfl, fun _ _ hb => nomatch hb⟩

theorem encEof : Statement .encEof := ⟨rfl, fun _ _ hb => nomatch hb⟩

theorem decStep : Statement .decStep := ⟨rfl, fun _ _ hb => nomatch hb⟩

theorem cCount : Statement .cCount := ⟨rfl, fun _ _ hb => nomatch hb⟩

theorem cBuild : Statement .cBuild := ⟨rfl, fun _ _ hb => nomatch hb⟩

theorem cCodes : Statement .cCodes := ⟨rfl, fun _ _ hb => nomatch hb⟩

theorem cMagic : Statement .cMagic := ⟨rfl, fun _ _ hb => nomatch hb⟩

theorem cHeader : Statement .cHeader := ⟨rfl, fun _ _ hb => nomatch hb⟩

theorem cRewind : Statement .cRewind := ⟨rfl, fun _ _ hb => nomatch hb⟩

theorem cBody : Statement .cBody := ⟨rfl, fun _ _ hb => nomatch hb⟩

theorem cEof : Statement .cEof := ⟨rfl, fun _ _ hb => nomatch hb⟩

theorem cFlush : Statement .cFlush := ⟨rfl, fun _ _ hb => nomatch hb⟩

theorem dMagic : Statement .dMagic := ⟨rfl, fun _ _ hb => nomatch hb⟩

theorem dHeader : Statement .dHeader := ⟨rfl, fun _ _ hb => nomatch hb⟩

theorem dRootchk : Statement .dRootchk := ⟨rfl, fun _ _ hb => nomatch hb⟩

theorem dBody : Statement .dBody := ⟨rfl, fun _ _ hb => nomatch hb⟩

theorem dClose : Statement .dClose := ⟨rfl, fun _ _ hb => nomatch hb⟩

theorem raise (e : ErrKind) : Statement (.raise e) := ⟨rfl, fun _ _ hb => nomatch hb⟩

theorem reset : Statement .reset := ⟨rfl, fun _ _ hb => nomatch hb⟩

end Sys2Proof.Laws.Encodable
end

