-- ==== Sys2Proof/Tests/Slice0.lean ====
section
/-! SUPPORT. Tests: ill-formed operands refused; words written out bit by bit from the spec's encodings
decoded; the spec's own examples and vectors (95_test_vectors.md) met in one step each; and, for every
statement with hypotheses, concrete states and operands that meet them. MAGIC is the spec's illustrative
value (95_test_vectors.md, opening). -/

namespace Sys2Proof.Machine

-- One theorem after another: a kernel evaluation per thread needs a stack each.
set_option Elab.async false

/-! ### Small states -/

/-- A state with every table at zero, in a phase. -/
def blank (p : Phase) : State where
  par := ⟨0xFACE8201#32, 32⟩
  phase := p
  micro := .start
  err := 0
  mode := if stateField p = 1 ∧ (p = .dMagic ∨ p = .dHeader ∨ p = .dRootchk ∨ p = .dBody ∨ p = .dClose) then 1 else 0
  freq := Vector.replicate 257 0
  total := 0
  node := Vector.replicate 513 { kind := .leaf, value := 0, weight := 0, left := 0, right := 0 }
  nodeCnt := 0
  root := 0
  alive := Vector.replicate 513 false
  code := Vector.replicate 257 { len := 0, bits := 0 }
  codeValid := Vector.replicate 257 false
  seen := Vector.replicate 257 false
  intCnt := 0
  cur := 0
  wrAcc := 0
  wrCnt := 0
  rdByte := 0
  rdCnt := 0
  stack := []
  ret := .none
  fresh := 0
  src := []
  pos := 0
  out := []
  snk := .opened
  trace := []
  host := []

/-- What a function of the next state is, if there is one. -/
def got {α : Type} (o : Host.Outcome State Fault Refusal) (f : State → α) : Option α :=
  match o with
  | .next t => some (f t)
  | .fault _ => none
  | .refused _ => none

def leafNode (y : Sym) (w : Nat) : Node := { kind := .leaf, value := y, weight := w, left := 0, right := 0 }

def innerNode (w : Nat) (l r : NodeIx) : Node := { kind := .internal, value := 0, weight := w, left := l, right := r }

/-- Nodes written from index 0 up. -/
def withNodes (l : List Node) (s : State) : State :=
  (l.foldl (fun (p : State × Nat) x => (setNode (Fin.ofNat 513 p.2) x p.1, p.2 + 1))
    ({ s with nodeCnt := Fin.ofNat 514 l.length }, 0)).1

/-- Counts of some symbols, and their sum as TOTAL. -/
def withCounts (l : List (Sym × Nat)) (s : State) : State :=
  l.foldl (fun t x => { t with freq := t.freq.set x.1.val x.2 x.1.isLt, total := t.total + x.2 }) s

/-- The counts of "aabbbcccc" (V3). -/
def countsV3 (p : Phase) : State := withCounts [(97, 2), (98, 3), (99, 4), (256, 1)] (blank p)

/-- The deserialized tree of V3, `(99 (98 (EOF 97)))`, at ROOT (R177's example). -/
def treeV3 (p : Phase) : State :=
  withNodes [innerNode 0 1 2, leafNode 99 0, innerNode 0 3 4, leafNode 98 0, innerNode 0 5 6, leafNode 256 0,
    leafNode 97 0] (blank p)

/-- The codes of V3 (R165's example), and the packer of section 2.6. -/
def codesV3 (p : Phase) : State :=
  recordCode 99 [false] (recordCode 98 [true, false] (recordCode 256 [true, true, false]
    (recordCode 97 [true, true, true] (blank p))))

/-! ### Host commands (95_test_vectors.md 2.8, 2.9) -/

theorem test_nop_v45c : got (execNop { blank .done with mode := 1 }) statusByte = some 0x22#8 := by decide +kernel
theorem test_compress_starts : got (execCompress { blank .idle with wrAcc := 0xA0, wrCnt := 3, rdCnt := 5 })
    (fun t => (statusByte t, t.phase, t.wrAcc, t.wrCnt, t.rdCnt)) = some (0x01#8, .cCount, 0, 0, 0) := by decide +kernel
theorem test_compress_v45b : got (execCompress { blank .error with err := 2, mode := 1 }) statusByte
    = some 0x2B#8 := by decide +kernel
theorem test_decompress_v45f : got (execDecompress (blank .idle)) (fun t => (statusByte t, t.phase))
    = some (0x21#8, .dMagic) := by decide +kernel
theorem test_decompress_v45d : got (execDecompress { blank .done with mode := 1 }) statusByte
    = some 0x22#8 := by decide +kernel
theorem test_clear_v45 : got (execClear { blank .error with err := 2, mode := 1, snk := .aborted, out := [1#8] })
    (fun t => (statusByte t, t.nodeCnt, t.snk, t.out, t.trace)) = some (0x00#8, 0, .aborted, [1#8], []) := by
  decide +kernel
theorem test_clear_v44 : got (execClear (blank .cBody)) statusByte = some 0x01#8 := by decide +kernel
theorem test_reserved_v43 : got (execCmdReserved 0x41#8 (blank .idle)) (fun t => (statusByte t, t.trace))
    = some (0x1F#8, []) := by decide +kernel
theorem test_reserved_v43c : got (execCmdReserved 0x41#8 (blank .done)) statusByte = some 0x02#8 := by decide +kernel
theorem test_status_read : got (execStatusRead { blank .error with err := 4, mode := 1 }) (·.ret)
    = some (.status 0x33#8) := by decide +kernel
theorem test_reset_v46 : got (execReset { blank .cBody with wrAcc := 0xA0, wrCnt := 3, rdCnt := 1, out := [1#8] })
    (fun t => (statusByte t, t.wrCnt, t.rdCnt, t.snk, t.trace)) = some (0x00#8, 0, 0, .opened, []) := by
  decide +kernel
theorem test_raise_v13c : got (execRaise .noCode { blank .cBody with wrAcc := 0xA0, wrCnt := 3 })
    (fun t => (statusByte t, t.wrAcc, t.wrCnt, t.snk, t.trace)) = some (0x1B#8, 0, 0, .aborted, [.snkAbort]) := by
  decide +kernel

/-! ### Bit packer (2.1) -/

theorem test_chInit : got (execChInit { blank .cCount with wrAcc := 0xA0, wrCnt := 3, rdCnt := 5 })
    (fun t => (t.wrAcc, t.wrCnt, t.rdCnt, t.trace)) = some (0, 0, 0, []) := by decide +kernel
theorem test_putbit_v10b : got (execPutbit true { blank .cBody with wrAcc := 0xC0, wrCnt := 2 })
    (fun t => (t.wrAcc, t.wrCnt, t.trace)) = some (0xE0, 3, []) := by decide +kernel
theorem test_putbit_v10d : got (execPutbit false { blank .cBody with wrAcc := 0xFE, wrCnt := 7 })
    (fun t => (t.wrAcc, t.wrCnt, t.out, t.trace)) = some (0, 0, [0xFE#8], [.snkPut 0xFE#8]) := by decide +kernel
theorem test_writebits_v12 : got (execWritebits 32 0x12345678#32 { blank .cBody with wrAcc := 0x80, wrCnt := 1 })
    (fun t => (t.out, t.wrAcc, t.wrCnt)) = some ([0x89#8, 0x1A#8, 0x2B#8, 0x3C#8], 0, 1) := by decide +kernel
theorem test_writebits_v13b : got (execWritebits 8 0x3A5#32 (blank .cBody)) (fun t => (t.out, t.wrAcc, t.wrCnt))
    = some ([0xA5#8], 0, 0) := by decide +kernel
theorem test_close_v11b : got (execClose { blank .cFlush with wrCnt := 2 }) (fun t => (t.out, t.wrCnt, t.snk, t.trace))
    = some ([0x00#8], 0, .closed, [.snkPut 0x00#8, .snkClose]) := by decide +kernel
theorem test_close_v13d : got (execClose (blank .cFlush)) (fun t => (t.out, t.trace))
    = some ([], [.snkClose]) := by decide +kernel
theorem test_abort_v13c : got (execAbort { blank .cBody with wrAcc := 0xA0, wrCnt := 3 })
    (fun t => (t.wrAcc, t.wrCnt, t.snk, t.trace)) = some (0, 0, .aborted, [.snkAbort]) := by decide +kernel

/-! ### Bit unpacker (2.2) -/

theorem test_getbit_v14 : got (execGetbit { blank .dHeader with src := [0xC0#8, 0x00#8] })
    (fun t => (t.ret, t.rdByte, t.rdCnt, t.pos)) = some (.bit true, 0xC0, 7, 1) := by decide +kernel
theorem test_getbit_last_bit : got (execGetbit { blank .dHeader with rdByte := 0xFE, rdCnt := 1 })
    (fun t => (t.ret, t.rdCnt, t.trace)) = some (.bit false, 0, []) := by decide +kernel
theorem test_readbits_v15b :
    got (execReadbits 32 { blank .dHeader with
        src := [0xFF#8, 0xC9#8, 0x1A#8, 0x2B#8, 0x3C#8, 0x00#8], pos := 2, rdByte := 0xC9, rdCnt := 7 })
      (fun t => (t.ret, t.rdByte, t.rdCnt, nextsIn t.trace)) = some (.value 0x92345678#32, 0x00, 7, 4) := by
  decide +kernel
theorem test_readbits_v16b : got (execReadbits 9 { blank .dHeader with src := [0xA5#8], pos := 1, rdByte := 0xA5, rdCnt := 4 })
    (fun t => (t.ret, t.rdCnt, t.trace)) = some (.eof, 0, [.srcNext none]) := by decide +kernel
theorem test_rewind_v17c : got (execRewind { blank .cRewind with src := [0x61#8, 0x62#8], pos := 1, rdCnt := 3 })
    (fun t => (t.pos, t.rdCnt, t.trace)) = some (0, 0, [.srcRewind]) := by decide +kernel

/-! ### Frequency counter (2.3) -/

theorem test_fcClear_v18 : got (execFcClear (blank .cCount))
    (fun t => (t.freq.get 0x41, t.freq.get 256, t.total)) = some (0, 1, 1) := by decide +kernel
theorem test_fcCount_r141 :
    got (execFcCount { withCounts [(0x61, 1), (256, 1)] (blank .cCount) with src := [0x61#8] })
      (fun t => (t.freq.get 0x61, t.total, t.ret)) = some (2, 3, .more) := by decide +kernel
theorem test_fcCount_v20 :
    got (execFcCount { withCounts [(0x41, 6), (256, 1)] (blank .cCount) with
        src := List.replicate 7 0x41#8, pos := 6, par := ⟨0xFACE8201#32, 3⟩ })
      (fun t => (statusByte t, t.freq.get 0x41, t.pos, t.snk)) = some (0x17#8, 6, 7, .aborted) := by decide +kernel
theorem test_fcRun_v18c : got (execFcRun { blank .cCount with src := [0x00#8, 0xFF#8, 0x00#8] })
    (fun t => (t.freq.get 0, t.freq.get 255, t.freq.get 256, t.total)) = some (2, 1, 1, 4) := by decide +kernel
theorem test_fcRun_v19 : got (execFcRun { blank .cCount with src := List.replicate 6 0x41#8, par := ⟨0#32, 3⟩ })
    (fun t => (t.phase, t.freq.get 0x41, t.total)) = some (.cCount, 6, 7) := by decide +kernel

/-! ### Tree builder (R150 to R153's examples) -/

theorem test_tbInit_r150 : got (execTbInit (countsV3 .cBuild))
    (fun t => (nodeAt t 0, nodeAt t 3, t.nodeCnt, t.alive.get 3)) = some (leafNode 97 2, leafNode 256 1, 4, true) := by
  decide +kernel
/-- R151's example: alive are 1 (weight 3), 2 (weight 4) and 4 (weight 3). -/
def aliveR151 : State :=
  setAlive 1 true (setAlive 2 true (setAlive 4 true (withNodes [leafNode 97 2, leafNode 98 3, leafNode 99 4, leafNode 256 1,
    innerNode 3 3 0] (blank .cBuild))))
theorem test_tbMin_r151 : got (execTbMin aliveR151) (fun t => (t.ret, t.alive.get 1)) = some (.node 1, true) := by
  decide +kernel
theorem test_tbMerge_v3 : got (execTbMerge aliveR151)
    (fun t => (nodeAt t 5, t.nodeCnt, t.alive.get 1, t.alive.get 4, t.alive.get 5))
    = some (innerNode 6 1 4, 6, false, false, true) := by decide +kernel
theorem test_tbBuild_v3 : got (execTbBuild (countsV3 .cBuild))
    (fun t => (nodeAt t 4, nodeAt t 5, nodeAt t 6, t.nodeCnt, t.root))
    = some (innerNode 3 3 0, innerNode 6 1 4, innerNode 10 2 5, 7, 6) := by decide +kernel

/-! ### Code table (R165's example) -/

theorem test_ctDerive_v3 : got (execCtDerive (treeV3 .cCodes))
    (fun t => (codeBits (t.code.get 99), codeBits (t.code.get 98), codeBits (t.code.get 256), codeBits (t.code.get 97),
      t.codeValid.get 97, t.codeValid.get 100))
    = some ([false], [true, false], [true, true, false], [true, true, true], true, false) := by decide +kernel
theorem test_ctWalk_v3 : got (execCtWalk 4 [true, true] (treeV3 .cCodes))
    (fun t => (t.code.get 97, t.codeValid.get 98)) = some ({ len := 3, bits := 0b111 }, false) := by decide +kernel

/-! ### Header codec (2.5) -/

/-- The tree of V27c, `(EOF (65 66))`. -/
def treeV27c (p : Phase) : State :=
  withNodes [innerNode 0 1 2, leafNode 256 0, innerNode 0 3 4, leafNode 65 0, leafNode 66 0] (blank p)
theorem test_hdrSer_v27c : got (execHdrSer 0 (treeV27c .cHeader)) (fun t => (t.out, t.wrCnt))
    = some ([0b01100000#8, 0b00001001#8, 0b00000110#8, 0b01000010#8], 0) := by decide +kernel
theorem test_hdrInit : got (execHdrInit { treeV27c .dHeader with intCnt := 9, seen := Vector.replicate 257 true })
    (fun t => (t.nodeCnt, t.intCnt, t.seen.get 65)) = some (0, 0, false) := by decide +kernel
theorem test_hdrDes_v28 :
    got (execHdrDes { blank .dHeader with src := [0b01100000#8, 0b00001001#8, 0b00000110#8, 0b01000010#8] })
      (fun t => (t.ret, t.nodeCnt, t.intCnt, t.rdCnt)) = some (.node 0, 5, 2, 0) := by decide +kernel
theorem test_hdrDes_v28_nodes :
    got (execHdrDes { blank .dHeader with src := [0b01100000#8, 0b00001001#8, 0b00000110#8, 0b01000010#8] })
      (fun t => [nodeAt t 0, nodeAt t 1, nodeAt t 2, nodeAt t 4])
    = some [innerNode 0 1 2, leafNode 256 0, innerNode 0 3 4, leafNode 66 0] := by decide +kernel

/-! ### Tokens -/

theorem test_magic_matches : got (execMagic 0xFACE8201#32 (blank .dMagic)) (·.phase) = some .dHeader := by decide +kernel
theorem test_magic_v36 : got (execMagic 0xFACE8200#32 (blank .dMagic)) (fun t => (statusByte t, t.trace))
    = some (0x27#8, [.snkAbort]) := by decide +kernel
theorem test_nodeInternal_first : got (execNodeInternal { blank .dHeader with micro := .loop })
    (fun t => (nodeAt t 0, t.nodeCnt, t.intCnt, t.stack)) = some (innerNode 0 0 0, 1, 1, [⟨0, .left⟩]) := by decide +kernel
theorem test_nodeInternal_v29d : got (execNodeInternal { blank .dHeader with micro := .loop, intCnt := 256, nodeCnt := 256 })
    (fun t => (statusByte t, t.nodeCnt)) = some (0x33#8, 256) := by decide +kernel
theorem test_nodeLeaf_v29b : got (execNodeLeaf 257#9 { blank .dHeader with micro := .loop })
    (fun t => (statusByte t, t.nodeCnt)) = some (0x33#8, 0) := by decide +kernel
/-- The header of V27c up to its last leaf: `L(66)` finishes node 2 and then node 0. -/
theorem test_nodeLeaf_v28 :
    got (execNodeLeaf 66#9 { withNodes [innerNode 0 1 2, leafNode 256 0, innerNode 0 3 0, leafNode 65 0] (blank .dHeader) with
        micro := .loop, stack := [⟨2, .right⟩, ⟨0, .right⟩] })
      (fun t => (t.ret, nodeAt t 0, nodeAt t 2, nodeAt t 4, t.stack))
    = some (.node 0, innerNode 0 1 2, innerNode 0 3 4, leafNode 66 0, []) := by decide +kernel
theorem test_codeword_97 : got (execCodeword [true, true, true] (treeV3 .dBody))
    (fun t => (t.ret, t.out, t.cur)) = some (.go, [0x61#8], 0) := by decide +kernel
theorem test_codeword_256 : got (execCodeword [true, true, false] (treeV3 .dBody))
    (fun t => (t.ret, t.out, t.cur)) = some (.stop, [], 5) := by decide +kernel
theorem test_pad : got (execPad 7 (blank .done)) (fun t => (t.out, t.trace, statusByte t)) = some ([], [], 0x02#8) := by
  decide +kernel

/-! ### Encoder and decoder steps (2.6, 2.7) -/

theorem test_encSym_98 : got (execEncSym 98 { codesV3 .cBody with wrAcc := 0x1C, wrCnt := 6 })
    (fun t => (t.out, t.wrAcc, t.wrCnt)) = some ([0x1E#8], 0, 0) := by decide +kernel
theorem test_encSym_100 : got (execEncSym 100 (codesV3 .cBody)) statusByte = some 0x1B#8 := by decide +kernel
theorem test_encEof_v3 : got (execEncEof (codesV3 .cEof)) (fun t => (t.wrAcc, t.wrCnt)) = some (0b11000000, 3) := by
  decide +kernel
theorem test_decStep_emits : got (execDecStep { treeV3 .dBody with src := [0x00#8] })
    (fun t => (t.ret, t.out, t.cur)) = some (.go, [0x63#8], 0) := by decide +kernel
theorem test_decStep_stops : got (execDecStep { treeV3 .dBody with cur := 4, src := [0x00#8] })
    (fun t => (t.ret, t.out, t.cur)) = some (.stop, [], 5) := by decide +kernel

/-! ### Phases (the examples of R191 to R211) -/

def textV3 : List Byte := [0x61#8, 0x61#8, 0x62#8, 0x62#8, 0x62#8, 0x63#8, 0x63#8, 0x63#8, 0x63#8]

theorem test_cCount_v3 : got (execCCount { blank .cCount with src := textV3 })
    (fun t => (t.phase, t.total, nextsIn t.trace)) = some (.cBuild, 10, 10) := by decide +kernel
theorem test_cBuild_v3 : got (execCBuild (countsV3 .cBuild)) (fun t => (t.phase, t.root)) = some (.cCodes, 6) := by
  decide +kernel
theorem test_cCodes_v3 : got (execCCodes (treeV3 .cCodes)) (fun t => (t.phase, t.code.get 99))
    = some (.cMagic, { len := 1, bits := 0 }) := by decide +kernel
theorem test_cMagic : got (execCMagic (blank .cMagic)) (fun t => (t.phase, t.out))
    = some (.cHeader, [0xFA#8, 0xCE#8, 0x82#8, 0x01#8]) := by decide +kernel
theorem test_cHeader_v3 : got (execCHeader (treeV3 .cHeader)) (fun t => (t.phase, t.out, t.wrAcc, t.wrCnt))
    = some (.cRewind, [0x4C#8, 0x69#8, 0x89#8, 0x80#8, 0x4C#8], 0b00100000, 3) := by decide +kernel
theorem test_cRewind : got (execCRewind { blank .cRewind with src := textV3, pos := 9 }) (fun t => (t.phase, t.pos))
    = some (.cBody, 0) := by decide +kernel
theorem test_cBody_v3 : got (execCBody { codesV3 .cBody with src := textV3 }) (fun t => (t.phase, t.out, t.wrCnt))
    = some (.cEof, [0b11111110#8, 0b10100000#8], 0) := by decide +kernel
theorem test_cEof_v3 : got (execCEof (codesV3 .cEof)) (fun t => (t.phase, t.wrAcc)) = some (.cFlush, 0b11000000) := by
  decide +kernel
theorem test_cFlush_v3 : got (execCFlush { blank .cFlush with wrAcc := 0b00011000, wrCnt := 6 })
    (fun t => (statusByte t, t.out, t.snk)) = some (0x02#8, [0x18#8], .closed) := by decide +kernel
theorem test_dMagic_v37 : got (execDMagic { blank .dMagic with src := [0xFA#8, 0xCE#8, 0x82#8] })
    (fun t => (statusByte t, nextsIn t.trace)) = some (0x27#8, 4) := by decide +kernel
theorem test_dHeader_v29g : got (execDHeader { blank .dHeader with src := [0xC0#8] }) statusByte = some 0x2B#8 := by
  decide +kernel
theorem test_dHeader_v1 : got (execDHeader { blank .dHeader with src := [0xC0#8, 0x00#8] })
    (fun t => (t.phase, nodeAt t 0, t.root)) = some (.dRootchk, leafNode 256 0, 0) := by decide +kernel
theorem test_dRootchk_v39 : got (execDRootchk (withNodes [leafNode 65 0] (blank .dRootchk))) (·.phase)
    = some .dClose := by decide +kernel
theorem test_dRootchk_v3 : got (execDRootchk (treeV3 .dRootchk)) (·.phase) = some .dBody := by decide +kernel
theorem test_dBody_v34 : got (execDBody { treeV3 .dBody with rdByte := 0b00111111, rdCnt := 5 })
    (fun t => (statusByte t, t.out, t.snk)) = some (0x2F#8, [0x61#8], .aborted) := by decide +kernel
theorem test_dBody_v3 : got (execDBody { treeV3 .dBody with src := [0b11111110#8, 0b10100000#8, 0b11000000#8] })
    (fun t => (t.phase, t.out, t.rdCnt)) = some (.dClose, textV3, 5) := by decide +kernel
theorem test_dClose : got (execDClose (blank .dClose)) (fun t => (t.phase, t.out, t.trace))
    = some (.done, [], [.snkClose]) := by decide +kernel

/-! ### Ill-formed operands are refused (WellFormed) -/

theorem test_wf_refuses :
    (Instr.cmdReserved 0x03#8).wf = false ∧ (Instr.codeword (List.replicate 257 true)).wf = false ∧
    (Instr.pad 8).wf = false ∧ (Instr.writebits 0 0).wf = false ∧ (Instr.writebits 33 0).wf = false ∧
    (Instr.readbits 0).wf = false ∧ (Instr.readbits 33).wf = false ∧
    (Instr.ctWalk 0 (List.replicate 257 false)).wf = false := by decide +kernel
theorem test_wf_accepts :
    (Instr.cmdReserved 0x04#8).wf = true ∧ (Instr.codeword (List.replicate 256 true)).wf = true ∧
    (Instr.pad 7).wf = true ∧ (Instr.writebits 32 0).wf = true ∧ (Instr.readbits 1).wf = true ∧
    (Instr.ctWalk 0 (List.replicate 256 false)).wf = true ∧ (Instr.nodeLeaf 511#9).wf = true := by decide +kernel

/-! ### Words written out from the encodings of 30_encoding.md -/

/-- A bit string from its digits. -/
def digits (l : List Nat) : BitString := l.map (· == 1)

/-- The operation a bit string decodes to. -/
def decoded (f : Format) (l : List Nat) : Option Instr := (decode f (digits l)).toOption

theorem test_decode_nop : decoded .cmd [0,0,0,0,0,0,0,0] = some .nop := by decide +kernel
theorem test_decode_compress : decoded .cmd [0,0,0,0,0,0,0,1] = some .compress := by decide +kernel
theorem test_decode_decompress : decoded .cmd [0,0,0,0,0,0,1,0] = some .decompress := by decide +kernel
theorem test_decode_clear : decoded .cmd [0,0,0,0,0,0,1,1] = some .clear := by decide +kernel
theorem test_decode_reserved : decoded .cmd [0,1,0,0,0,0,0,1] = some (.cmdReserved 0x41#8) := by decide +kernel
theorem test_decode_magic : decoded .magic
    [1,1,1,1,1,0,1,0, 1,1,0,0,1,1,1,0, 1,0,0,0,0,0,1,0, 0,0,0,0,0,0,0,1] = some (.magic 0xFACE8201#32) := by
  decide +kernel
theorem test_decode_nodeInternal : decoded .node [0] = some .nodeInternal := by decide +kernel
theorem test_decode_nodeLeaf : decoded .node [1, 1,0,0,0,0,0,0,0,0] = some (.nodeLeaf 256#9) := by decide +kernel
theorem test_decode_nodeLeaf_99 : decoded .node [1, 0,0,1,1,0,0,0,1,1] = some (.nodeLeaf 99#9) := by decide +kernel
theorem test_decode_codeword : decoded .codeword [1,1,0] = some (.codeword [true, true, false]) := by decide +kernel
theorem test_decode_pad : decoded .pad [0,0,0] = some (.pad 3) := by decide +kernel
theorem test_decode_rejects :
    decoded .cmd [0,0,0,0,0,0,1] = none ∧ decoded .magic [1] = none ∧ decoded .node [] = none ∧
    decoded .node [0,0] = none ∧ decoded .node [1,0,0,1,1,0,0,0,1] = none ∧
    decoded .codeword (List.replicate 257 0) = none ∧ decoded .pad [0,1] = none ∧
    decoded .pad (List.replicate 8 0) = none := by decide +kernel

theorem test_table_word :
    decodeTableWord 8 0x00 = some .nop ∧ decodeTableWord 8 0x03 = some .clear ∧
    decodeTableWord 8 0x41 = some (.cmdReserved 0x41#8) ∧ decodeTableWord 1 0 = some .nodeInternal ∧
    decodeTableWord 10 0b1001100011 = some (.nodeLeaf 99#9) ∧
    decodeTableWord 16 0b1100000000 = some (.nodeLeaf 256#9) ∧
    decodeTableWord 32 0xFACE8201 = some (.magic 0xFACE8201#32) ∧ decodeTableWord 5 0 = none := by decide +kernel

/-- The very next step after reset runs the placed word. -/
theorem test_fetch_command : got (step (State.reset.withFetchWord 8 0x02)) (·.phase) = some .dMagic := by decide +kernel
theorem test_fetch_reserved : got (step (State.reset.withFetchWord 8 0x41)) statusByte = some 0x1F#8 := by decide +kernel
theorem test_fetch_magic : got (step ((blank .idle).withFetchWord 32 0xFACE8201)) (·.phase) = some .dHeader := by
  decide +kernel
theorem test_fetch_internal : got (step ((blank .idle).withFetchWord 1 0)) (·.stack) = some [⟨0, .left⟩] := by
  decide +kernel
theorem test_fetch_leaf : got (step ((blank .idle).withFetchWord 10 0b1001100011)) (fun t => nodeAt t 0)
    = some (leafNode 99 0) := by decide +kernel

/-! ### For every statement with hypotheses: states and operands that meet them -/

theorem got_next {α : Type} {o : Host.Outcome State Fault Refusal} {f : State → α} {a : α}
    (h : got o f = some a) : ∃ t, o = .next t ∧ f t = a := by
  cases o <;> simp_all [got]

/-- `blank` with other parameters, error, mode, source and host actions. -/
def set (p : Phase) (w : Nat) (e : BitVec 3) (m : BitVec 1) (src : List Byte) (host : List HostEvent) : State :=
  { blank p with par := ⟨0xFACE8201#32, w⟩, err := e, mode := m, src := src, host := host }

theorem set_inv (p : Phase) (w : Nat) (e : BitVec 3) (m : BitVec 1) (src : List Byte) (host : List HostEvent)
    (hw : 1 ≤ w) (he : ErrAgrees (set p w e m [] [])) (hm : ModeAgrees (set p w e m [] [])) :
    (set p w e m src host).Inv := by
  refine ⟨fun k _ => by simp [set, blank], ⟨hw, by simp [set, blank], fun y => ?_, fun i => ?_⟩, he, hm,
    ⟨fun h => absurd rfl h, by simp [set, blank]⟩, Nat.zero_le _⟩
  · simp [set, blank, Vector.get]
  · simp [set, blank, nodeAt, Vector.get]

theorem set_idle_inv (w : Nat) (src : List Byte) (host : List HostEvent) (hw : 1 ≤ w) :
    (set .idle w 0 0 src host).Inv :=
  set_inv _ _ _ _ _ _ hw (by simp [ErrAgrees, set, blank]) (by simp [ModeAgrees, set, blank])

theorem set_idle_live (src : List Byte) (host : List HostEvent) : (set .idle 32 0 0 src host).Live := by
  refine ⟨set_idle_inv 32 src host (by decide), ?_, ?_, ?_, ?_⟩ <;>
    simp [CountsAgree, TreeReady, EofCoded, HeaderAccount, set, blank]

/-- A state of a run in the middle of reading a header: nothing read yet, no byte in the source. -/
theorem header_live : ({ set .dHeader 32 0 1 [] [] with micro := .loop } : State).Live := by
  refine ⟨⟨fun k _ => by simp [set, blank], ⟨by decide, by simp [set, blank], fun y => ?_, fun i => ?_⟩,
    by simp [ErrAgrees, set, blank], by simp [ModeAgrees, set, blank], ⟨fun h => absurd rfl h, by simp [set, blank]⟩,
    Nat.zero_le _⟩, ?_, ?_, ?_, ?_⟩
  · simp [set, blank, Vector.get]
  · simp [set, blank, nodeAt, Vector.get]
  all_goals simp [CountsAgree, TreeReady, EofCoded, HeaderAccount, set, blank, subtreesDue]

theorem test_hyp_DecodeOfEncode :
    (Instr.nodeLeaf 511#9).wf = true ∧ (Instr.nodeLeaf 511#9).format = some .node ∧
    encode (.nodeLeaf 511#9) = some (digits [1, 1,1,1,1,1,1,1,1,1]) ∧
    (Instr.codeword (List.replicate 256 true)).wf = true ∧
    encode (.codeword (List.replicate 256 true)) = some (List.replicate 256 true) ∧
    (Instr.pad 7).wf = true ∧ encode (.pad 7) = some (digits [0,0,0,0,0,0,0]) := by decide +kernel

theorem test_hyp_EncodeOfDecode :
    decode .cmd (digits [1,1,1,1,1,1,1,1]) = .ok (.cmdReserved 0xFF#8) ∧
    decode .node [false] = .ok .nodeInternal ∧ decode .codeword [] = .ok (.codeword []) := ⟨rfl, rfl, rfl⟩

theorem test_hyp_SpecWordsDecode :
    (0xFC#8 : Byte).extractLsb' 2 6 ≠ 0#6 ∧ (0x04#8 : Byte).extractLsb' 2 6 ≠ 0#6 ∧
    (0x03#8 : Byte).extractLsb' 2 6 = 0#6 ∧ (0x00#8 : Byte).extractLsb' 0 2 = 0#2 ∧
    (0x01#8 : Byte).extractLsb' 0 2 = 1#2 ∧ (0x02#8 : Byte).extractLsb' 0 2 = 2#2 ∧
    (0x03#8 : Byte).extractLsb' 0 2 = 3#2 := by decide

theorem test_hyp_StepRunsHostAction :
    (set .idle 32 0 0 [] [.write 0x04#8, .wait]).host = .write 0x04#8 :: [.wait] ∧
    decode .cmd (bitsOf 8 (0x04#8 : Byte).toNat) = .ok (.cmdReserved 0x04#8) ∧
    (set .idle 32 0 0 [] [.readStatus]).host = .readStatus :: [] ∧
    (set .idle 32 0 0 [] [.reset]).host = .reset :: [] ∧
    (set .idle 32 0 0 [] [.source [0x41#8] 1]).host = .source [0x41#8] 1 :: [] ∧ 1 ≤ [0x41#8].length ∧
    [0x41#8].length ≤ 2 ∧ (set .idle 32 0 0 [] [.sink]).host = .sink :: [] ∧
    (set .cBody 32 0 0 [] [.stall]).host = .stall :: [] :=
  ⟨rfl, rfl, rfl, rfl, rfl, by decide, by decide, rfl, rfl⟩

theorem test_hyp_StepRunsFetchedOperation :
    (blank .cBody).host = [] ∧ fetch (blank .cBody) = .op (.readbits 8) (blank .cBody) ∧
    (blank .dBody).host = [] ∧ (∃ t, fetch (blank .dBody) = .op .decStep t) ∧
    (∃ t, fetch { blank .dHeader with micro := .loop, src := [0#8] } = .op .nodeInternal t) ∧
    (blank .idle).phase = .idle ∧ (blank .done).phase = .done ∧ (blank .error).phase = .error ∧
    (set .cEof 32 0 0 [] [.wait]).host = .wait :: [] ∧
    (∃ t, fetch { set .cEof 32 0 0 [] [.wait] with host := [] } = .op .cEof t) :=
  ⟨rfl, rfl, rfl, ⟨_, rfl⟩, ⟨_, rfl⟩, rfl, rfl, rfl, rfl, ⟨_, rfl⟩⟩

theorem test_hyp_StepRunsDecodedToken :
    (∃ t, getBits 32 { blank .dMagic with src := [0xFA#8, 0xCE#8, 0x82#8, 0x01#8] }
        = (some (bitsOf 32 0xFACE8201), t)) ∧
    decode .magic (bitsOf 32 0xFACE8201) = .ok (.magic 0xFACE8201#32) ∧
    (∃ t, getBits 32 { blank .dMagic with src := [0xFA#8, 0xCE#8, 0x82#8] } = (none, t)) ∧
    (∃ t u, getBit { blank .dHeader with micro := .loop, src := [0xC0#8, 0#8] } = (some true, t) ∧
      getBits (tokenTail true) t = (some (bitsOf 9 256), u)) ∧
    decode .node (true :: bitsOf 9 256) = .ok (.nodeLeaf 256#9) ∧
    (∃ t, getBit { blank .dHeader with micro := .loop } = (none, t)) ∧
    (∃ t u, getBit { blank .dHeader with micro := .loop, src := [0xC0#8] } = (some true, t) ∧
      getBits (tokenTail true) t = (none, u)) ∧
    (∃ t, getBit { blank .dBody with micro := .loop, src := [0x80#8] } = (some true, t)) ∧
    decode .codeword [true] = .ok (.codeword [true]) :=
  ⟨⟨_, rfl⟩, rfl, ⟨_, rfl⟩, ⟨_, _, rfl, rfl⟩, rfl, ⟨_, rfl⟩, ⟨_, _, rfl, rfl⟩, ⟨_, rfl⟩, rfl⟩

theorem test_hyp_CommandsByState :
    isBusy (blank .cCount).phase = true ∧ isBusy (blank .dClose).phase = true ∧
    (set .cBody 32 0 0 [] [.write 0x03#8]).host = .write 0x03#8 :: [] ∧
    isReservedCmd 0x04#8 = true ∧ isReservedCmd 0xFF#8 = true ∧
    (blank .idle).phase = .idle ∧ (blank .done).phase ≠ .idle := by decide +kernel

theorem test_hyp_OperationStart : (blank .idle).phase = .idle ∧ (blank .error).phase ≠ .idle := by decide +kernel

theorem test_hyp_ClearReturnsToIdle :
    (blank .idle).phase = .idle ∧ (blank .done).phase = .done ∧ (blank .error).phase = .error ∧
    isBusy (blank .cBody).phase = true := by decide +kernel

theorem test_hyp_StatusReadReturnsTheView :
    (blank .idle).phase = .idle ∧ (blank .done).phase = .done ∧ (blank .error).phase = .error ∧
    (set .idle 32 0 0 [] []).Inv ∧ (set .error 32 4 1 [] []).Inv ∧ (set .error 32 5 0 [] []).Inv :=
  ⟨rfl, rfl, rfl, set_idle_inv _ _ _ (by decide),
    set_inv _ _ _ _ _ _ (by decide) (by simp [ErrAgrees, set, blank]) (by simp [ModeAgrees, set, blank]),
    set_inv _ _ _ _ _ _ (by decide) (by simp [ErrAgrees, set, blank]) (by simp [ModeAgrees, set, blank])⟩

theorem test_hyp_ErrorEntry : (blank .dBody).phase ≠ .idle ∧ (blank .idle).phase = .idle := by decide +kernel

theorem test_hyp_ErrorIsSticky :
    (blank .error).phase = .error ∧ (blank .error).host = [] ∧ (0x02#8 : Byte) ≠ 0x03#8 ∧ (0x04#8 : Byte) ≠ 0x03#8 ∧
    (set .error 32 2 1 [] [.write 0x02#8, .sink]).phase = .error ∧
    (set .error 32 2 1 [] [.write 0x02#8, .sink]).host = .write 0x02#8 :: [.sink] ∧
    (set .error 32 2 1 [] [.wait]).host = .wait :: [] ∧ (set .error 32 2 1 [] [.stall]).host = .stall :: [] ∧
    (set .error 32 2 1 [] [.source [0x41#8] 0]).host = .source [0x41#8] 0 :: [] ∧
    (set .error 32 2 1 [] [.sink]).host = .sink :: [] ∧
    (set .error 32 2 1 [] [.readStatus]).host = .readStatus :: [] :=
  ⟨rfl, rfl, by decide, by decide, rfl, rfl, rfl, rfl, rfl, rfl, rfl⟩

/-- A node whose left child is itself: no walk over it ends. -/
def loopNode : State := withNodes [innerNode 0 0 0] (blank .cCodes)

theorem test_hyp_NamedStops :
    (∀ i : NodeIx, i.val < (blank .cBuild).nodeCnt.val → (blank .cBuild).alive.get i = false) ∧
    (∀ i : NodeIx, i.val < (treeV3 .cBuild).nodeCnt.val → (treeV3 .cBuild).alive.get i = false) ∧
    ((1 : NodeIx).val < (setAlive 1 true (treeV3 .cBuild)).nodeCnt.val ∧
      (setAlive 1 true (treeV3 .cBuild)).alive.get 1 = true ∧
      ∀ i : NodeIx, i.val < (setAlive 1 true (treeV3 .cBuild)).nodeCnt.val →
        (setAlive 1 true (treeV3 .cBuild)).alive.get i = true → i = 1) ∧
    ({ aliveR151 with nodeCnt := 513 } : State).nodeCnt.val = 513 ∧ aliveR151.alive.get 1 = true ∧
    aliveR151.alive.get 4 = true ∧ (blank .dHeader).intCnt.val < 256 ∧ (256#9 : BitVec 9).toNat = (256 : Sym).val ∧
    (blank .dHeader).seen.get 256 = false ∧
    maxDepth ≤ ({ blank .dHeader with stack := List.replicate 256 ⟨0, .left⟩ } : State).stack.length ∧
    (nodeAt loopNode 0).kind = .internal ∧ (nodeAt loopNode 0).left = 0 ∧ loopNode.root = 0 ∧
    widthOk 0 = false ∧ widthOk 33 = false ∧ maxDepth < (List.replicate 257 true).length := by
  refine ⟨fun i h => absurd h (Nat.not_lt_zero _), ?_, ?_, ?_⟩ <;> decide +kernel

theorem test_hyp_InvariantKept :
    (set .idle 3 0 0 [0x41#8] [.write 0x01#8]).Inv ∧
    (∃ t, step (set .idle 3 0 0 [0x41#8] [.write 0x01#8]) = .next t) := ⟨set_idle_inv _ _ _ (by decide), _, rfl⟩

theorem test_hyp_StepNeverStops :
    (set .idle 32 0 0 [0x41#8] [.write 0x01#8]).Live ∧
    ({ set .dHeader 32 0 1 [] [] with micro := .loop } : State).Live := ⟨set_idle_live _ _, header_live⟩

theorem test_hyp_PhaseFollowsTheGraph :
    (set .idle 32 0 0 [] [.write 0x02#8]).Live ∧ (∃ t, step (set .idle 32 0 0 [] [.write 0x02#8]) = .next t) ∧
    ({ set .dHeader 32 0 1 [] [] with micro := .loop } : State).Live ∧
    (∃ t, step { set .dHeader 32 0 1 [] [] with micro := .loop } = .next t) :=
  ⟨set_idle_live _ _, ⟨_, rfl⟩, header_live, ⟨_, rfl⟩⟩

theorem test_hyp_ErrorsComeFromTheirPhases :
    (set .idle 32 0 0 [] [.write 0x04#8]).Live ∧
    (∃ t, step (set .idle 32 0 0 [] [.write 0x04#8]) = .next t ∧ t.phase = .error) ∧
    ({ set .dHeader 32 0 1 [] [] with micro := .loop } : State).Live ∧
    (∃ t, step { set .dHeader 32 0 1 [] [] with micro := .loop } = .next t ∧ t.phase = .error) :=
  ⟨set_idle_live _ _, ⟨_, rfl, rfl⟩, header_live, ⟨_, rfl, rfl⟩⟩

theorem test_hyp_TablesWrittenInTheirPhases :
    (blank .cFlush).host = [] ∧ (∃ t, step (blank .cFlush) = .next t) ∧
    (blank .cFlush).phase ≠ .cBuild ∧ (blank .cFlush).phase ≠ .dHeader ∧ (blank .cFlush).phase ≠ .cCodes ∧
    (blank .cFlush).phase ≠ .cCount ∧ (blank .cFlush).phase ≠ .dBody :=
  ⟨rfl, ⟨_, rfl⟩, by decide, by decide, by decide, by decide, by decide⟩

theorem test_hyp_OutputKeepsItsOrder :
    (∃ t, step (blank .cFlush) = .next t ∧ t.phase = .done) ∧ (blank .cFlush).snk = .opened ∧
    (∀ rest, (blank .cFlush).host ≠ .sink :: rest) ∧ isBusy (blank .cFlush).phase = true ∧
    (blank .cFlush).host = [] ∧ (∃ t, step (blank .dMagic) = .next t ∧ t.phase = .error) ∧
    isBusy (blank .dMagic).phase = true ∧ (blank .dMagic).host = [] :=
  ⟨⟨_, rfl, rfl⟩, rfl, fun _ h => (by simp [blank] at h), rfl, rfl, ⟨_, rfl, rfl⟩, rfl, rfl⟩

theorem test_hyp_ChannelControl :
    (blank .cFlush).wrCnt = 0 ∧ ({ blank .cFlush with wrCnt := 7 } : State).wrCnt ≠ 0 ∧
    ({ blank .cFlush with wrCnt := 7 } : State).snk = .opened := ⟨rfl, by decide, rfl⟩

theorem test_hyp_PutbitAppendsOneBit :
    ({ blank .cBody with wrCnt := 6 } : State).wrCnt.val < 7 ∧ ({ blank .cBody with wrCnt := 7 } : State).wrCnt.val = 7 ∧
    ({ blank .cBody with wrCnt := 7 } : State).snk = .opened ∧
    PackerClean { blank .cBody with wrAcc := 0xFE, wrCnt := 7 } := by
  refine ⟨by decide, by decide, rfl, ?_⟩
  show ∀ k, k < 1 → (0xFE#8).getLsbD k = false
  decide

theorem test_hyp_WritebitsIsPutbits : (1 ≤ 1 ∧ 1 ≤ 32) ∧ 1 ≤ 32 ∧ 32 ≤ 32 := by decide

theorem test_hyp_GetbitDeliversTheNextBit :
    remaining { blank .dBody with rdByte := 0xFE, rdCnt := 1 } = false :: [] ∧
    remaining { blank .dBody with src := [0x80#8] } = true :: [false, false, false, false, false, false, false] ∧
    ({ blank .dBody with rdByte := 0xFE, rdCnt := 1 } : State).rdCnt ≠ 0 ∧ (blank .dBody).rdCnt = 0 ∧
    remaining (blank .dBody) = [] := by decide +kernel

theorem test_hyp_ReadbitsReturnsTheNumeral :
    (1 ≤ 8 ∧ 8 ≤ 32 ∧ 8 ≤ (remaining { blank .cCount with src := [0x80#8] }).length) ∧
    (1 ≤ 32 ∧ 32 ≤ 32 ∧ (remaining { blank .dMagic with src := [0xFA#8, 0xCE#8, 0x82#8] }).length < 32) := by
  decide +kernel

theorem test_hyp_WholeBytes :
    (blank .cBody).rdCnt = 0 ∧ ({ blank .cBody with src := [0x41#8] } : State).src[0]? = some 0x41#8 ∧
    ({ blank .cBody with src := [0x41#8] } : State).src[1]? = none ∧ (blank .cBody).wrCnt = 0 ∧
    (blank .cBody).wrAcc = 0 ∧ (blank .cBody).snk = .opened := by decide +kernel

theorem test_hyp_PackThenUnpack :
    (blank .cBody).wrAcc = 0 ∧ (blank .cBody).wrCnt = 0 ∧ (blank .cBody).snk = .opened ∧ (blank .cBody).out = [] ∧
    (∃ t, execSeq ([true, true].map .putbit ++ [.close]) (blank .cBody) = .next t ∧
      ({ blank .dBody with src := [0xC0#8] } : State).src = t.out) ∧
    (blank .dBody).pos = 0 ∧ (blank .dBody).rdCnt = 0 := ⟨rfl, rfl, rfl, rfl, ⟨_, rfl, rfl⟩, rfl, rfl⟩

theorem test_hyp_CountingSteps :
    (blank .cCount).rdCnt = 0 ∧ (blank .cCount).src[(blank .cCount).pos]? = none ∧
    ({ countsV3 .cCount with src := [0x61#8] } : State).src[0]? = some 0x61#8 ∧
    (countsV3 .cCount).total = countSum (countsV3 .cCount) ∧
    (countsV3 .cCount).total < 2 ^ (countsV3 .cCount).par.w - 1 ∧
    (withCounts [(0x41, 6), (256, 1)] (set .cCount 3 0 0 [0x41#8] [])).total = 2 ^ 3 - 1 ∧
    (blank .cCount).phase ≠ .idle := by
  refine ⟨rfl, rfl, rfl, ?_, by decide +kernel, by decide +kernel, by decide⟩
  decide +kernel

theorem test_hyp_CountingPass :
    (set .cCount 3 0 0 (List.replicate 6 0x41#8) []).rdCnt = 0 ∧ (set .cCount 3 0 0 [] []).pos = 0 ∧
    1 ≤ (set .cCount 3 0 0 [] []).par.w ∧
    (set .cCount 3 0 0 (List.replicate 6 0x41#8) []).src.length ≤ 2 ^ 3 - 2 ∧
    2 ^ 3 - 2 < (set .cCount 3 0 0 (List.replicate 7 0x41#8) []).src.length := by decide +kernel

theorem test_hyp_MinIsLeast :
    (4 : NodeIx).val < aliveR151.nodeCnt.val ∧ aliveR151.alive.get 4 = true := by decide +kernel

theorem test_hyp_MergeTakesTheTwoLeast :
    (1 : NodeIx) ≠ 4 ∧ (1 : NodeIx).val < aliveR151.nodeCnt.val ∧ (4 : NodeIx).val < aliveR151.nodeCnt.val ∧
    aliveR151.alive.get 1 = true ∧ aliveR151.alive.get 4 = true ∧ aliveR151.nodeCnt.val < 513 := by decide +kernel

theorem test_hyp_BuildMakesAValidTree : 0 < (countsV3 .cBuild).freq.get pseudoEof := by decide +kernel

def builtV3 : SymbolTree :=
  .internal 10 (.leaf 99 4) (.internal 6 (.leaf 98 3) (.internal 3 (.leaf 256 1) (.leaf 97 2)))

theorem built_v3 : ∃ t, exec .tbBuild (countsV3 .cBuild) = .next t ∧ t.tree = some builtV3 :=
  got_next (f := State.tree) (by decide +kernel)

theorem test_hyp_BuiltWeightsAddUp :
    0 < (countsV3 .cBuild).freq.get pseudoEof ∧ (countsV3 .cBuild).total = countSum (countsV3 .cBuild) ∧
    (countsV3 .cBuild).total < 2 ^ (countsV3 .cBuild).par.w ∧
    ∃ t, exec .tbBuild (countsV3 .cBuild) = .next t ∧ t.tree = some builtV3 :=
  ⟨by decide +kernel, by decide +kernel, by decide +kernel, built_v3⟩

theorem test_hyp_FrequentSymbolsAreNotDeeper :
    0 < (countsV3 .cBuild).freq.get pseudoEof ∧ countSum (countsV3 .cBuild) < 2 ^ (countsV3 .cBuild).par.w ∧
    (∃ t, exec .tbBuild (countsV3 .cBuild) = .next t ∧ t.tree = some builtV3) ∧
    (countsV3 .cBuild).freq.get 97 < (countsV3 .cBuild).freq.get 99 ∧
    builtV3.code 99 = some [false] ∧ builtV3.code 97 = some [true, true, true] :=
  ⟨by decide +kernel, by decide +kernel, built_v3, by decide +kernel, by decide +kernel, by decide +kernel⟩

/-- The abstract tree of V3 without weights. -/
def absV3 : SymbolTree :=
  .internal 0 (.leaf 99 0) (.internal 0 (.leaf 98 0) (.internal 0 (.leaf 256 0) (.leaf 97 0)))

theorem absV3_distinct : absV3.distinct := by unfold SymbolTree.distinct; decide +kernel

theorem test_hyp_CodesAreThePaths :
    (treeV3 .cCodes).tree = some absV3 ∧ absV3.distinct ∧
    (withNodes [leafNode 256 1] (blank .cCodes)).tree = some (.leaf 256 1) ∧ (SymbolTree.leaf 256 1).distinct :=
  ⟨by decide +kernel, absV3_distinct, by decide +kernel, by unfold SymbolTree.distinct; decide +kernel⟩

theorem test_hyp_WalkExtendsThePath :
    ([true, true] : BitString).length ≤ maxDepth ∧
    treeAt (treeV3 .cCodes) (maxDepth - 2) 4 = some (.internal 0 (.leaf 256 0) (.leaf 97 0)) ∧
    (SymbolTree.internal 0 (.leaf 256 0) (.leaf 97 0)).distinct ∧
    (List.replicate 256 true).length ≤ maxDepth ∧
    treeAt (treeV3 .cCodes) (maxDepth - 256) 6 = some (.leaf 97 0) :=
  ⟨by decide, by decide +kernel, by unfold SymbolTree.distinct; decide +kernel, by decide +kernel, by decide +kernel⟩

theorem test_hyp_CodesArePrefixFree :
    (98 : Sym) ≠ 97 ∧ absV3.code 98 = some [true, false] ∧ absV3.code 97 = some [true, true, true] := by
  decide +kernel

theorem test_hyp_KraftEquality : absV3.distinct ∧ (SymbolTree.leaf 256 0).distinct :=
  ⟨absV3_distinct, by unfold SymbolTree.distinct; decide +kernel⟩

theorem test_hyp_SerializesInPreorder : treeAt (treeV3 .cHeader) maxDepth 0 = some absV3 := by decide +kernel

theorem test_hyp_HeaderTokens :
    ((blank .dHeader).intCnt.val < 256 ∧ (blank .dHeader).stack.length < maxDepth ∧ (blank .dHeader).nodeCnt.val < 513) ∧
    ({ blank .dHeader with intCnt := 256 } : State).intCnt.val = 256 ∧ 256 < (257#9 : BitVec 9).toNat ∧
    (65#9 : BitVec 9).toNat = (65 : Sym).val ∧
    ({ blank .dHeader with seen := Vector.replicate 257 true } : State).seen.get 65 = true ∧
    (256#9 : BitVec 9).toNat = (256 : Sym).val ∧ (blank .dHeader).seen.get 256 = false ∧
    ({ blank .dHeader with nodeCnt := 512 } : State).nodeCnt.val < 513 ∧ (blank .dHeader).stack = [] ∧
    ({ blank .dHeader with stack := [⟨0, .left⟩] } : State).stack = ⟨0, .left⟩ :: [] ∧
    ({ blank .dHeader with stack := [⟨0, .right⟩] } : State).stack = ⟨0, .right⟩ :: [] := by decide +kernel

/-- The header of V28, and its tree. -/
def absV27c : SymbolTree := .internal 0 (.leaf 256 0) (.internal 0 (.leaf 65 0) (.leaf 66 0))
def bytesV28 : List Byte := [0b01100000#8, 0b00001001#8, 0b00000110#8, 0b01000010#8]

theorem absV27c_distinct : absV27c.distinct := by unfold SymbolTree.distinct; decide +kernel

theorem test_hyp_HeaderRoundTrip :
    absV27c.distinct ∧ (blank .dHeader).nodeCnt = 0 ∧ (blank .dHeader).intCnt = 0 ∧
    (∀ y, (blank .dHeader).seen.get y = false) ∧
    remaining { blank .dHeader with src := bytesV28 } = absV27c.ser ++ [] :=
  ⟨absV27c_distinct, rfl, rfl, by decide +kernel, by decide +kernel⟩

theorem test_hyp_AcceptedHeadersAreTrees :
    (blank .dHeader).nodeCnt = 0 ∧ (blank .dHeader).intCnt = 0 ∧ (∀ y, (blank .dHeader).seen.get y = false) ∧
    ∃ t, exec .hdrDes { blank .dHeader with src := bytesV28 } = .next t ∧ t.ret = .node 0 :=
  ⟨rfl, rfl, by decide +kernel, got_next (f := State.ret) (by decide +kernel)⟩

theorem test_hyp_TruncatedHeaderReported :
    absV27c.distinct ∧ absV27c.ser = remaining (blank .dHeader) ++ false :: absV27c.ser.tail ∧
    absV27c.ser = remaining { blank .dHeader with src := [0b01100000#8, 0b00001001#8, 0b00000110#8], rdCnt := 0 }
      ++ false :: [true, false, false, false, false, true, false] ∧
    (blank .dHeader).nodeCnt = 0 ∧ (blank .dHeader).intCnt = 0 ∧ (∀ y, (blank .dHeader).seen.get y = false) :=
  ⟨absV27c_distinct, by decide +kernel, by decide +kernel, rfl, rfl, by decide +kernel⟩

theorem test_hyp_SymbolEncoding :
    (codesV3 .cBody).codeValid.get 99 = true ∧ 1 ≤ ((codesV3 .cBody).code.get 99).len.val ∧
    ((codesV3 .cBody).code.get 99).len.val ≤ 32 ∧
    (recordCode 5 (List.replicate 32 true) (blank .cBody)).codeValid.get 5 = true ∧
    ((recordCode 5 (List.replicate 32 true) (blank .cBody)).code.get 5).len.val = 32 ∧
    (codesV3 .cBody).codeValid.get 100 = false := by decide +kernel

theorem test_hyp_DecoderStep :
    (∃ t, getBit (treeV3 .dBody) = (none, t)) ∧
    (∃ t, getBit { treeV3 .dBody with src := [0x80#8] } = (some true, t)) ∧
    (nodeAt (treeV3 .dBody) 2).kind = .internal ∧
    ((nodeAt (treeV3 .dBody) 5).kind = .leaf ∧ (nodeAt (treeV3 .dBody) 5).value = 256 ∧
      5 = (nodeAt { treeV3 .dBody with cur := 4 } 4).left) ∧
    ((nodeAt (treeV3 .dBody) 1).kind = .leaf ∧ (nodeAt (treeV3 .dBody) 1).value ≠ 256 ∧
      1 = (nodeAt (treeV3 .dBody) 0).left) ∧
    (treeV3 .dBody).wrCnt = 0 ∧ (treeV3 .dBody).wrAcc = 0 ∧ (treeV3 .dBody).snk = .opened :=
  ⟨⟨_, rfl⟩, ⟨_, rfl⟩, by decide +kernel, by decide +kernel, by decide +kernel, by decide +kernel, by decide +kernel,
    by decide +kernel⟩

theorem test_hyp_CodewordEmitsItsSymbol :
    (treeV3 .dBody).tree = some absV3 ∧ 2 ≤ absV3.leaves ∧ absV3.code 97 = some [true, true, true] ∧
    absV3.code 256 = some [true, true, false] ∧ (treeV3 .dBody).cur = (treeV3 .dBody).root ∧
    (treeV3 .dBody).wrCnt = 0 ∧ (treeV3 .dBody).wrAcc = 0 ∧ (treeV3 .dBody).snk = .opened := by decide +kernel

theorem test_hyp_MagicIsChecked :
    0xFACE8200#32 ≠ (blank .dMagic).par.magic ∧
    remaining { blank .dMagic with src := [0xFA#8, 0xCE#8, 0x82#8, 0x01#8] }
      = bitsOf 32 (blank .dMagic).par.magic.toNat ++ [] ∧
    remaining { blank .dMagic with src := [0xFA#8, 0xCE#8, 0x82#8, 0x00#8] } = bitsOf 32 (0xFACE8200#32).toNat ++ [] ∧
    (blank .dMagic).rdCnt = 0 ∧
    (remaining { blank .dMagic with src := [0xFA#8, 0xCE#8, 0x82#8] }).length < 32 := by decide +kernel

theorem test_hyp_RootCheckAndClose :
    (nodeAt (blank .dRootchk) (blank .dRootchk).root).kind = .leaf ∧
    (nodeAt (treeV3 .dRootchk) (treeV3 .dRootchk).root).kind = .internal ∧ (blank .dClose).wrCnt = 0 := by decide +kernel

theorem test_hyp_CompressPhases :
    ((set .cCount 3 0 0 (List.replicate 6 0x41#8) []).rdCnt = 0 ∧ (blank .cCount).pos = 0 ∧
      (List.replicate 6 0x41#8).length ≤ 2 ^ 3 - 2) ∧
    0 < (countsV3 .cBuild).freq.get pseudoEof ∧ (treeV3 .cCodes).tree.isSome = true ∧
    (treeV3 .cHeader).tree.isSome = true ∧ (codesV3 .cEof).codeValid.get pseudoEof = true := by decide +kernel

theorem test_hyp_BodyWritesTheCodes :
    (blank .cBody).rdCnt = 0 ∧ ({ codesV3 .cBody with src := textV3 } : State).pos ≤ textV3.length ∧
    (∀ b ∈ textV3.drop 0, (codesV3 .cBody).codeValid.get (symOfByte b) = true) ∧
    (∃ b ∈ ([0x61#8, 0x64#8] : List Byte).drop 0, (codesV3 .cBody).codeValid.get (symOfByte b) = false) := by
  refine ⟨rfl, by decide +kernel, by decide +kernel, 0x64#8, by decide, by decide +kernel⟩

theorem test_hyp_HeaderPhaseReadsTheTree :
    absV27c.distinct ∧ remaining { blank .dHeader with src := bytesV28 ++ [0x80#8] } = absV27c.ser ++ bitsOf 8 0x80 :=
  ⟨absV27c_distinct, by decide +kernel⟩

theorem test_hyp_BodyDecodesItsSymbols :
    (treeV3 .dBody).tree = some absV3 ∧ 2 ≤ absV3.leaves ∧ pseudoEof ∈ absV3.values ∧
    (∀ b ∈ ([0x61#8, 0x63#8] : List Byte), symOfByte b ∈ absV3.values) ∧
    remaining { treeV3 .dBody with src := [0b11101100#8] }
      = (([0x61#8, 0x63#8] : List Byte).flatMap fun b => absV3.codeBits (symOfByte b)) ++ absV3.codeBits pseudoEof ++ [false] ∧
    (treeV3 .dBody).wrCnt = 0 ∧ (treeV3 .dBody).wrAcc = 0 ∧ (treeV3 .dBody).snk = .opened := by decide +kernel

theorem test_hyp_BodyWithoutEndMarkerIsTruncated :
    (withNodes [innerNode 0 1 2, leafNode 65 0, leafNode 66 0] (blank .dBody)).tree
      = some (.internal 0 (.leaf 65 0) (.leaf 66 0)) ∧
    2 ≤ (SymbolTree.internal 0 (.leaf 65 0) (.leaf 66 0)).leaves ∧
    pseudoEof ∉ (SymbolTree.internal 0 (.leaf 65 0) (.leaf 66 0)).values := by decide +kernel

theorem test_hyp_StepsPerformThePhase :
    ((blank .cCount).host = [] ∧ (blank .cCount).micro = .start ∧ (blank .cCount).stack = []) ∧
    (∃ t, exec .cCount { blank .cCount with src := [0x41#8] } = .next t) ∧
    (∃ t, exec .cBody { codesV3 .cBody with src := textV3 } = .next t) ∧
    (∃ t, exec .dHeader { blank .dHeader with src := bytesV28 } = .next t) ∧
    (∃ t, exec .dBody { treeV3 .dBody with src := [0b11111000#8] } = .next t) ∧
    (blank .dMagic).host = [] ∧ (blank .dMagic).phase = .dMagic := by
  refine ⟨⟨rfl, rfl, rfl⟩, ?_, ?_, ?_, ?_, rfl, rfl⟩
  · exact (got_next (f := State.phase) (a := .cBuild) (by decide +kernel)).imp fun _ h => h.1
  · exact (got_next (f := State.phase) (a := .cEof) (by decide +kernel)).imp fun _ h => h.1
  · exact (got_next (f := State.phase) (a := .dRootchk) (by decide +kernel)).imp fun _ h => h.1
  · exact (got_next (f := State.phase) (a := .dClose) (by decide +kernel)).imp fun _ h => h.1

theorem test_hyp_CompressProducesTheStream :
    (set .idle 3 0 0 (List.replicate 6 0x41#8) [.write 0x01#8]).Inv ∧
    (set .idle 3 0 0 (List.replicate 6 0x41#8) [.write 0x01#8]).host = [.write 0x01#8] ∧
    (set .idle 3 0 0 [] []).phase = .idle ∧ (set .idle 3 0 0 [] []).pos = 0 ∧ (set .idle 3 0 0 [] []).out = [] ∧
    (set .idle 3 0 0 [] []).snk = .opened ∧ (List.replicate 6 0x41#8).length ≤ 2 ^ 3 - 2 ∧
    (set .idle 1 0 0 [] [.write 0x01#8]).Inv ∧ ([] : List Byte).length ≤ 2 ^ 1 - 2 :=
  ⟨set_idle_inv _ _ _ (by decide), rfl, rfl, rfl, rfl, rfl, by decide, set_idle_inv _ _ _ (by decide), by decide⟩

/-- V30's stream and junk (V40), and V39's. -/
theorem test_hyp_DecompressReturnsTheSymbols :
    (set .idle 32 0 0 [0xFA#8, 0xCE#8, 0x82#8, 0x01#8, 0x48#8, 0x38#8, 0x02#8, 0xDE#8] [.write 0x02#8]).Inv ∧
    (set .idle 32 0 0 [] [.write 0x02#8]).phase = .idle ∧ (set .idle 32 0 0 [] [.write 0x02#8]).pos = 0 ∧
    (set .idle 32 0 0 [] [.write 0x02#8]).out = [] ∧ (set .idle 32 0 0 [] [.write 0x02#8]).snk = .opened ∧
    (SymbolTree.internal 2 (.leaf 65 1) (.leaf 256 1)).valid ∧
    2 ≤ (SymbolTree.internal 2 (.leaf 65 1) (.leaf 256 1)).leaves ∧
    (∀ b ∈ ([0x41#8] : List Byte), symOfByte b ∈ (SymbolTree.internal 2 (.leaf 65 1) (.leaf 256 1)).values) ∧
    unpackBytes [0xFA#8, 0xCE#8, 0x82#8, 0x01#8, 0x48#8, 0x38#8, 0x02#8, 0xDE#8]
      = streamBits 0xFACE8201#32 (.internal 2 (.leaf 65 1) (.leaf 256 1)) [0x41#8] ++ false :: bitsOf 8 0xDE ∧
    (SymbolTree.leaf 65 0).leaves = 1 ∧
    unpackBytes [0xFA#8, 0xCE#8, 0x82#8, 0x01#8, 0x90#8, 0x40#8]
      = bitsOf 32 (0xFACE8201#32).toNat ++ (SymbolTree.leaf 65 0).ser ++ List.replicate 6 false :=
  ⟨set_idle_inv _ _ _ (by decide), rfl, rfl, rfl, rfl,
    ⟨by unfold SymbolTree.distinct; decide +kernel, by decide +kernel⟩, by decide +kernel, by decide +kernel,
    by decide +kernel, by decide +kernel, by decide +kernel⟩

theorem test_hyp_CompressThenDecompress :
    (set .idle 32 0 0 textV3 [.write 0x01#8]).Inv ∧ (set .idle 32 0 0 textV3 [.write 0x01#8]).phase = .idle ∧
    (set .idle 32 0 0 textV3 [.write 0x01#8]).pos = 0 ∧ (set .idle 32 0 0 textV3 [.write 0x01#8]).out = [] ∧
    (set .idle 32 0 0 textV3 [.write 0x01#8]).snk = .opened ∧ textV3.length ≤ 2 ^ 32 - 2 :=
  ⟨set_idle_inv _ _ _ (by decide), rfl, rfl, rfl, rfl, by decide⟩

end Sys2Proof.Machine
end

section
/-! The register invariants (R22, R23, R33, R35, R60, R143, R155) in two parts: what the datapath keeps and
what the control registers keep. A unit operation works on the datapath and leaves the control registers
alone (`Works`); error entry, control transfers, the header's stack and the host's commands are the only
writers of the control registers. -/

namespace Sys2Proof.Proofs

open Sys2Proof.Machine Sys2Proof.Laws

/-! ### The two parts -/

/-- The datapath's part of the register invariants (R33, R143, R155, R60). -/
structure Datapath (s : State) : Prop where
  packer : PackerClean s
  counts : CountsFit s
  pos : s.pos ≤ s.src.length

/-- The control registers' part of the register invariants (R22, R23, R35). -/
structure Control (s : State) : Prop where
  err : ErrAgrees s
  mode : ModeAgrees s
  stack : StackAgrees s

theorem inv_iff (s : State) : s.Inv ↔ Datapath s ∧ Control s := by
  constructor
  · rintro ⟨hpacker, hcounts, herr, hmode, hstack, hpos⟩
    exact ⟨⟨hpacker, hcounts, hpos⟩, ⟨herr, hmode, hstack⟩⟩
  · rintro ⟨⟨hpacker, hcounts, hpos⟩, ⟨herr, hmode, hstack⟩⟩
    exact ⟨hpacker, hcounts, herr, hmode, hstack, hpos⟩

/-- `ERR` is 0 outside ERROR (R22). -/
theorem err_eq_zero {s : State} (hi : s.Inv) (h : s.phase ≠ .error) : s.err = 0 :=
  ((inv_iff s).mp hi).2.err.mpr h

/-- The stack is empty outside the header's loop (R35). -/
theorem stack_eq_nil {s : State} (hi : s.Inv) (h : s.phase = .dHeader → s.micro = .start) : s.stack = [] := by
  by_contra hne
  obtain ⟨hphase, hmicro⟩ := ((inv_iff s).mp hi).2.stack.1 hne
  exact hmicro (h hphase)

/-- The stack is never over 256 entries (R35). -/
theorem stack_length_le {s : State} (hi : s.Inv) : s.stack.length ≤ maxDepth :=
  ((inv_iff s).mp hi).2.stack.2

theorem modeAgrees {s : State} (hi : s.Inv) : ModeAgrees s := ((inv_iff s).mp hi).2.mode

/-! ### Work on the datapath -/

/-- From `s` to `t` the control registers stay and the datapath's invariants are kept. -/
structure Works (s t : State) : Prop where
  phase : t.phase = s.phase
  micro : t.micro = s.micro
  err : t.err = s.err
  mode : t.mode = s.mode
  stack : t.stack = s.stack
  data : Datapath s → Datapath t

theorem Works.refl (s : State) : Works s s := ⟨rfl, rfl, rfl, rfl, rfl, id⟩

theorem Works.trans {s t u : State} (h : Works s t) (k : Works t u) : Works s u :=
  ⟨k.phase.trans h.phase, k.micro.trans h.micro, k.err.trans h.err, k.mode.trans h.mode,
    k.stack.trans h.stack, fun d => k.data (h.data d)⟩

theorem Works.inv {s t : State} (h : Works s t) (hi : s.Inv) : t.Inv := by
  obtain ⟨hd, herr, hmode, hstack⟩ := (inv_iff s).mp hi
  refine (inv_iff t).mpr ⟨h.data hd, ?_, ?_, ?_⟩
  · simpa [ErrAgrees, h.err, h.phase] using herr
  · simpa [ModeAgrees, h.phase, h.mode, h.err] using hmode
  · simpa [StackAgrees, h.stack, h.phase, h.micro] using hstack

/-- The tables and registers that no register invariant speaks of may change at will. -/
theorem works_tables {s : State} {nodeCnt : Fin 514} {root cur : NodeIx} {alive : Vector Bool 513}
    {code : Vector CodeEntry 257} {codeValid seen : Vector Bool 257} {intCnt : Fin 257} :
    Works s { s with
      nodeCnt := nodeCnt, root := root, alive := alive, code := code, codeValid := codeValid, seen := seen,
      intCnt := intCnt, cur := cur } :=
  ⟨rfl, rfl, rfl, rfl, rfl, fun d => ⟨d.packer, d.counts, d.pos⟩⟩

/-! ### The bit channel -/

/-- `setBit` writes one bit and keeps the others (R120). -/
theorem getLsbD_setBit (acc : Byte) (b : Bool) {i k : Nat} (hk : k < 8) :
    (setBit acc i b).getLsbD k = if k = i then b else acc.getLsbD k := by
  have hmask : (1#8 <<< i).getLsbD k = decide (k = i) := by
    rw [Bool.eq_iff_iff]
    simp [hk]
    omega
  unfold setBit
  cases b
  · rw [if_neg (by decide), BitVec.getLsbD_and, BitVec.getLsbD_not, hmask]
    split <;> simp_all
  · rw [if_pos rfl, BitVec.getLsbD_or, hmask]
    split <;> simp_all

theorem packerClean_putBit (b : Bool) {s : State} (h : PackerClean s) : PackerClean (putBit b s) := by
  intro k hk
  unfold putBit at hk ⊢
  dsimp only at hk ⊢
  split at hk <;> split
  · rw [getLsbD_setBit _ _ (by omega), if_neg (by simp only at hk; omega)]
    exact h k (by simp only at hk; omega)
  · contradiction
  · contradiction
  · simp

/-- A read moves the unpacker and the source position only. -/
theorem works_reader {s : State} (r : BitVec 8) (c : Fin 9) {p : Nat} (l : List Txn)
    (h : s.pos ≤ s.src.length → p ≤ s.src.length) :
    Works s { s with rdByte := r, rdCnt := c, pos := p, trace := l } :=
  ⟨rfl, rfl, rfl, rfl, rfl, fun d => ⟨d.packer, d.counts, h d.pos⟩⟩

/-- A write moves the packer and the sink only. -/
theorem works_writer {s : State} {a : BitVec 8} {c : Fin 8} (o : List Byte) (f : Nat) (l : List Txn)
    (h : PackerClean s → PackerClean { s with wrAcc := a, wrCnt := c }) :
    Works s { s with wrAcc := a, wrCnt := c, out := o, fresh := f, trace := l } :=
  ⟨rfl, rfl, rfl, rfl, rfl, fun d => ⟨h d.packer, d.counts, d.pos⟩⟩

/-- The read position never passes the end of the source (R60). -/
theorem getBit_pos_le {s : State} (h : s.pos ≤ s.src.length) : (getBit s).2.pos ≤ s.src.length := by
  unfold getBit srcNext
  split
  · exact h
  · rcases hb : s.src[s.pos]? with _ | b
    · exact h
    · exact (List.getElem?_eq_some_iff.mp hb).1

theorem works_getBit (s : State) : Works s (getBit s).2 := by
  have h := works_reader (getBit s).2.rdByte (getBit s).2.rdCnt (getBit s).2.trace (getBit_pos_le (s := s))
  rwa [← getBit_frame] at h

theorem works_getBits (n : Nat) (s : State) : Works s (getBits n s).2 := by
  induction n generalizing s with
  | zero => exact .refl s
  | succ n ih =>
    have h := works_getBit s
    unfold getBits
    generalize getBit s = g at h ⊢
    obtain ⟨_ | b, t⟩ := g
    · exact h
    · have k := h.trans (ih t)
      dsimp only
      generalize getBits n t = g at k ⊢
      obtain ⟨_ | l, u⟩ := g <;> exact k

theorem works_readBits (n : Nat) (s : State) : Works s (readBits n s).2 :=
  readBits_snd n s ▸ works_getBits n s

theorem works_putBit (b : Bool) (s : State) : Works s (putBit b s) := by
  have h : Works s { s with
      wrAcc := (putBit b s).wrAcc, wrCnt := (putBit b s).wrCnt, out := (putBit b s).out,
      fresh := (putBit b s).fresh, trace := (putBit b s).trace } :=
    works_writer _ _ _ (packerClean_putBit b)
  rwa [← putBit_frame] at h

theorem works_putBits (l : BitString) (s : State) : Works s (putBits l s) := by
  induction l generalizing s with
  | nil => exact .refl s
  | cons b l ih => exact (works_putBit b s).trans (ih _)

theorem works_writeBits (n v : Nat) (s : State) : Works s (writeBits n v s) := works_putBits _ s

/-- An empty packer is clean. -/
theorem packerClean_empty {s : State} (h : s.wrAcc = 0) : PackerClean s := fun k _ => by simp [h]

theorem works_rewindIn (s : State) : Works s (rewindIn s) :=
  ⟨rfl, rfl, rfl, rfl, rfl, fun d => ⟨d.packer, d.counts, Nat.zero_le _⟩⟩

theorem works_closeOut (s : State) : Works s (closeOut s) := by
  unfold closeOut
  split
  · exact ⟨rfl, rfl, rfl, rfl, rfl, fun d => ⟨packerClean_empty rfl, d.counts, d.pos⟩⟩
  · exact ⟨rfl, rfl, rfl, rfl, rfl, fun d => ⟨d.packer, d.counts, d.pos⟩⟩

end Sys2Proof.Proofs
end

section
/-! What each unit operation keeps: it works on the datapath, and where it takes an error, the entry is the
last thing it does (R236). -/

namespace Sys2Proof.Proofs

open Sys2Proof.Machine Sys2Proof.Laws

/-! ### Operations that may end in an error -/

/-- The operation works on the datapath; the only error it may take is `e`, after work on the datapath. -/
inductive Keeps {α : Type} (e : ErrKind) (s : State) : Res α → Prop
  | ok {a : α} {t : State} (h : Works s t) : Keeps e s (.ok a t)
  | raised {u : State} (h : Works s u) : Keeps e s (.raised (raise e u))
  | stop {f : Fault} : Keeps e s (.stop f)

theorem Keeps.of_works {α : Type} {e : ErrKind} {s t : State} {r : Res α} (h : Works s t) (k : Keeps e t r) :
    Keeps e s r := by
  cases k with
  | ok k => exact .ok (h.trans k)
  | raised k => exact .raised (h.trans k)
  | stop => exact .stop

theorem Keeps.bind {α β : Type} {e : ErrKind} {s : State} {r : Res α} {f : α → State → Res β}
    (h : Keeps e s r) (hf : ∀ a t, Keeps e t (f a t)) : Keeps e s (r.bind f) := by
  cases h with
  | ok h => exact (hf _ _).of_works h
  | raised h => exact .raised h
  | stop => exact .stop

/-! ### Frequency counter -/

theorem addW_lt (s : State) (a b : Nat) : addW s a b < 2 ^ s.par.w := Nat.mod_lt _ (Nat.two_pow_pos _)

theorem works_clearCounts (s : State) : Works s (clearCounts s) := by
  refine ⟨rfl, rfl, rfl, rfl, rfl, fun ⟨hp, ⟨hw, _, _, hnode⟩, hpos⟩ => ⟨hp, ⟨hw, ?_, fun y => ?_, hnode⟩, hpos⟩⟩
  all_goals have h1 : 1 < 2 ^ s.par.w := Nat.one_lt_two_pow (Nat.one_le_iff_ne_zero.mp hw)
  · exact h1
  · change (table fun i => if i = pseudoEof then 1 else 0).get y < 2 ^ s.par.w
    rw [get_table]
    split <;> omega

theorem works_bumpCount (v : Sym) (s : State) : Works s (bumpCount v s) := by
  refine ⟨rfl, rfl, rfl, rfl, rfl,
    fun ⟨hp, ⟨hw, _, hfreq, hnode⟩, hpos⟩ => ⟨hp, ⟨hw, addW_lt s _ _, fun y => ?_, hnode⟩, hpos⟩⟩
  change (s.freq.set v.val _ v.isLt).get y < 2 ^ s.par.w
  rcases eq_or_ne v y with rfl | hne
  · rw [get_set_same]; exact addW_lt s _ _
  · rw [get_set_ne _ _ hne]; exact hfreq y

theorem keeps_countOne (s : State) : Keeps .countOverflow s (countOne s) := by
  have h := works_readBits 8 s
  unfold countOne
  generalize readBits 8 s = g at h ⊢
  obtain ⟨_ | v, t⟩ := g
  · exact .ok h
  · dsimp only
    split
    · exact .raised h
    · exact .ok (h.trans (works_bumpCount _ t))

/-! ### Node memory -/

/-- Node memory and the priority collection may change as long as every weight fits in W bits (R155). -/
theorem works_nodeMemory {s : State} (n : Vector Node 513) (a : Vector Bool 513) (c : Fin 514)
    (h : CountsFit s → ∀ i, (n.get i).weight < 2 ^ s.par.w) :
    Works s { s with node := n, alive := a, nodeCnt := c } :=
  ⟨rfl, rfl, rfl, rfl, rfl, fun ⟨hp, hc, hpos⟩ => ⟨hp, ⟨hc.1, hc.2.1, hc.2.2.1, h hc⟩, hpos⟩⟩

theorem works_setNode (i : NodeIx) (x : Node) (s : State) (h : CountsFit s → x.weight < 2 ^ s.par.w) :
    Works s (setNode i x s) := by
  refine ⟨rfl, rfl, rfl, rfl, rfl, fun ⟨hp, hc, hpos⟩ => ⟨hp, ⟨hc.1, hc.2.1, hc.2.2.1, fun j => ?_⟩, hpos⟩⟩
  change (nodeAt (setNode i x s) j).weight < 2 ^ s.par.w
  rcases eq_or_ne i j with rfl | hne
  · rw [nodeAt_setNode_same]; exact h hc
  · rw [nodeAt_setNode_ne _ _ hne]; exact hc.2.2.2 j

theorem works_setAlive (i : NodeIx) (b : Bool) (s : State) : Works s (setAlive i b s) := works_tables

theorem keeps_newNode {e : ErrKind} (x : Node) (s : State) (h : CountsFit s → x.weight < 2 ^ s.par.w) :
    Keeps e s (newNode x s) := by
  unfold newNode
  split
  next hfree =>
    exact .ok <| (works_setNode ⟨s.nodeCnt.val, hfree⟩ x s h).trans works_tables
  next => exact .stop

/-! ### Tree builder -/

/-- All TB.INIT can change (R150). -/
theorem initLeaves_frame (s : State) : initLeaves s = { s with
    node := (initLeaves s).node, alive := (initLeaves s).alive, nodeCnt := (initLeaves s).nodeCnt } := by
  rw [initLeaves]

/-- After TB.INIT an entry weighs a count, or what it weighed before (R150). -/
theorem initLeaves_weight (s : State) (i : NodeIx) :
    (∃ y, ((initLeaves s).node.get i).weight = s.freq.get y) ∨
      ((initLeaves s).node.get i).weight = (nodeAt s i).weight := by
  unfold initLeaves
  dsimp only
  rw [get_table]
  split
  · exact .inl ⟨_, rfl⟩
  · exact .inr rfl

theorem works_initLeaves (s : State) : Works s (initLeaves s) := by
  have h : Works s { s with
      node := (initLeaves s).node, alive := (initLeaves s).alive, nodeCnt := (initLeaves s).nodeCnt } := by
    refine works_nodeMemory _ _ _ fun ⟨_, _, hfreq, hnode⟩ i => ?_
    rcases initLeaves_weight s i with ⟨y, h⟩ | h
    · exact h.trans_lt (hfreq y)
    · exact h.trans_lt (hnode i)
  rwa [← initLeaves_frame] at h

theorem keeps_mergeTwo {e : ErrKind} (s : State) : Keeps e s (mergeTwo s) := by
  unfold mergeTwo
  split
  · exact .stop
  · rename_i a _
    dsimp only
    split
    · exact .stop
    · rename_i b _
      refine .of_works ((works_setAlive a false s).trans (works_setAlive b false _)) ?_
      exact (keeps_newNode _ _ fun _ => addW_lt _ _ _).bind fun n v => .ok (works_setAlive n true v)

theorem keeps_mergeLoop {e : ErrKind} (n : Nat) (s : State) : Keeps e s (mergeLoop n s) := by
  induction n generalizing s with
  | zero => exact .stop
  | succ n ih =>
    unfold mergeLoop
    split
    · exact (keeps_mergeTwo s).bind fun _ t => ih t
    · exact .ok (.refl s)

theorem keeps_buildTree {e : ErrKind} (s : State) : Keeps e s (buildTree s) := by
  refine .bind (.of_works (works_initLeaves s) (keeps_mergeLoop _ _)) fun _ t => ?_
  split
  · exact .stop
  · exact .ok works_tables

/-! ### Code table and header -/

theorem works_recordCode (y : Sym) (path : BitString) (s : State) : Works s (recordCode y path s) := works_tables

theorem keeps_walkCodes {e : ErrKind} (d : Nat) (i : NodeIx) (path : BitString) (s : State) :
    Keeps e s (walkCodes d i path s) := by
  induction d generalizing i path s with
  | zero =>
    unfold walkCodes
    split
    · exact .ok (works_recordCode _ _ s)
    · exact .stop
  | succ d ih =>
    unfold walkCodes
    split
    · exact .ok (works_recordCode _ _ s)
    · exact (ih _ _ s).bind fun _ t => ih _ _ t

theorem keeps_deriveCodes {e : ErrKind} (s : State) : Keeps e s (deriveCodes s) :=
  .of_works (t := clearCodes s) works_tables
    (keeps_walkCodes _ _ _ _)

theorem keeps_serialize {e : ErrKind} (d : Nat) (i : NodeIx) (s : State) : Keeps e s (serialize d i s) := by
  induction d generalizing i s with
  | zero =>
    unfold serialize
    split
    · exact .ok ((works_putBit true s).trans (works_writeBits 9 _ _))
    · exact .stop
  | succ d ih =>
    unfold serialize
    split
    · exact .ok ((works_putBit true s).trans (works_writeBits 9 _ _))
    · exact (Keeps.of_works (works_putBit false s) (ih _ _)).bind fun _ t => ih _ t

theorem works_initHeader (s : State) : Works s (initHeader s) := works_tables

theorem works_fetchNode (s : State) : Works s (fetchNode s).2 := by
  have h := works_getBit s
  unfold fetchNode
  generalize getBit s = g at h ⊢
  obtain ⟨_ | b, t⟩ := g
  · exact h
  · have k := h.trans (works_getBits (tokenTail b) t)
    dsimp only
    generalize getBits (tokenTail b) t = g at k ⊢
    obtain ⟨_ | l, u⟩ := g <;> exact k

theorem keeps_makeLeaf (v : BitVec 9) (s : State) : Keeps .malformedHeader s (makeLeaf v s) := by
  unfold makeLeaf
  split
  · exact .raised (.refl s)
  · rename_i y _
    split
    · exact .raised (.refl s)
    · exact .of_works (t := { s with seen := s.seen.set y.val true y.isLt }) works_tables
        (keeps_newNode _ _ fun _ => Nat.two_pow_pos _)

theorem keeps_makeInternal (s : State) : Keeps .malformedHeader s (makeInternal s) := by
  unfold makeInternal
  split
  · exact .of_works (t := { s with intCnt := ⟨s.intCnt.val + 1, by omega⟩ }) works_tables
      (keeps_newNode _ _ fun _ => Nat.two_pow_pos _)
  · exact .raised (.refl s)

/-- A link to a child leaves the parent's weight (R177). -/
theorem works_setLeft (n l : NodeIx) (s : State) : Works s (setLeft n l s) :=
  works_setNode _ _ _ fun hc => hc.2.2.2 n

theorem works_setRight (n r : NodeIx) (s : State) : Works s (setRight n r s) :=
  works_setNode _ _ _ fun hc => hc.2.2.2 n

/-- The return of a subtree links nodes and never deepens the stack; it has a result exactly when no call is
left (R177, R35). -/
theorem returnNode_works (n : NodeIx) (l : List Frame) (s : State) :
    ∃ v k r, Works s v ∧ returnNode n l s = { v with stack := k, ret := r } ∧ k.length ≤ l.length ∧
      (k = [] ∨ r = .none) := by
  induction l generalizing n s with
  | nil => exact ⟨s, [], .node n, .refl s, rfl, le_rfl, .inl rfl⟩
  | cons f l ih =>
    obtain ⟨p, side⟩ := f
    cases side with
    | left => exact ⟨setLeft p n s, _, .none, works_setLeft p n s, rfl, le_rfl, .inr rfl⟩
    | right =>
      obtain ⟨v, k, r, hv, he, hk, hr⟩ := ih p (setRight p n s)
      exact ⟨v, k, r, (works_setRight p n s).trans hv, he, Nat.le_succ_of_le hk, hr⟩

/-! ### Encoder and decoder step -/

theorem keeps_encodeSym (y : Sym) (s : State) : Keeps .noCode s (encodeSym y s) := by
  unfold encodeSym
  split
  · exact .ok (works_putBits _ s)
  · exact .raised (.refl s)

theorem works_setCur (i : NodeIx) (s : State) : Works s { s with cur := i } := works_tables

theorem works_decodeEdge (b : Bool) (s : State) : Works s (decodeEdge b s).2 := by
  unfold decodeEdge
  dsimp only
  generalize (if b then (nodeAt s s.cur).right else (nodeAt s s.cur).left) = i
  have h := works_setCur i s
  split
  · exact h
  · split
    · exact h
    · exact h.trans ((works_writeBits 8 _ _).trans (works_setCur _ _))

theorem keeps_decodeStep (s : State) : Keeps .truncatedStream s (decodeStep s) := by
  have h := works_getBit s
  unfold decodeStep
  generalize getBit s = g at h ⊢
  obtain ⟨_ | b, t⟩ := g
  · exact .raised h
  · exact .ok (h.trans (works_decodeEdge b t))

end Sys2Proof.Proofs
end

section
/-! The writers of the control registers (R21, R22, R23, R35): each keeps the register invariants, and so does
every step of the controller and every action of the host. -/

namespace Sys2Proof.Proofs

open Sys2Proof.Machine Sys2Proof.Laws

/-! ### Error entry, control transfer and sequencing -/

/-- The `MODE` an error goes with (R230): those of the decompressor have codes up to 4. -/
def errMode : ErrKind → BitVec 1
  | .formatMismatch | .truncatedHeader | .truncatedStream | .malformedHeader => 1
  | .countOverflow | .noCode | .illegalCommand => 0

theorem errMode_agrees (e : ErrKind) :
    if (errCode e).toNat ≤ 4 then errMode e = 1 else errMode e = 0 := by
  cases e <;> decide

theorem datapath_raise (e : ErrKind) {s : State} (h : Datapath s) : Datapath (raise e s) := by
  by_cases hp : s.phase = .idle
  · rw [raise_idle e s hp]
    exact ⟨h.packer, h.counts, h.pos⟩
  · rw [raise_working e s hp]
    exact ⟨packerClean_empty rfl, h.counts, h.pos⟩

/-- Error entry keeps the invariants where the error goes with the mode (R236, R230). -/
theorem raise_inv {e : ErrKind} {s t : State} (hi : s.Inv) (hw : Works s t) (hm : s.mode = errMode e) :
    (raise e t).Inv := by
  refine (inv_iff _).mpr ⟨datapath_raise e (hw.data ((inv_iff s).mp hi).1), ?_, ?_, ?_⟩
  · simpa [ErrAgrees] using errCode_ne_zero e
  · simpa [ModeAgrees, hw.mode, hm] using errMode_agrees e
  · simp [StackAgrees]

/-- An arrow of the controller that does not lead to ERROR keeps the mode right (R227, R23). -/
theorem modeAgrees_of_arrow {s t : State} (hs : ModeAgrees s) (ha : controllerArrow s.phase t.phase = true)
    (he : t.phase ≠ .error) (hm : t.mode = s.mode) : ModeAgrees t := by
  unfold ModeAgrees at hs ⊢
  rw [hm]
  unfold controllerArrow at ha
  split at ha <;> simp_all

/-- A control transfer along an arrow of R227 keeps the invariants when no walk is in progress. -/
theorem goto_inv {p q : Phase} {s t : State} (hi : s.Inv) (hw : Works s t) (hs : s.phase = p)
    (ha : controllerArrow p q = true) (hq : q ≠ .error) (hstack : s.stack = []) : (goto q t).Inv := by
  subst hs
  have hs : s.phase ≠ .error := fun h => by simp [h, controllerArrow] at ha
  obtain ⟨hd, hc⟩ := (inv_iff s).mp hi
  obtain ⟨hpacker, hcounts, hpos⟩ := hw.data hd
  refine (inv_iff _).mpr ⟨⟨hpacker, hcounts, hpos⟩, ?_, ?_, ?_⟩
  · simp [ErrAgrees, hw.err, err_eq_zero hi hs, hq]
  · exact modeAgrees_of_arrow hc.mode ha hq hw.mode
  · simp [StackAgrees, hw.stack, hstack]

/-- Moving on inside a phase keeps the invariants, but a walk in progress stays in its loop (R35). -/
theorem setMicro_inv {s : State} (m : Micro) (hi : s.Inv) (h : s.stack = [] ∨ m ≠ .start) :
    ({ s with micro := m } : State).Inv := by
  obtain ⟨hpacker, hcounts, herr, hmode, ⟨hwalk, hdepth⟩, hpos⟩ := hi
  refine ⟨hpacker, hcounts, herr, hmode, ⟨fun hne => ⟨(hwalk hne).1, ?_⟩, hdepth⟩, hpos⟩
  exact h.resolve_left hne

/-- The result register carries no invariant. -/
theorem setRet_inv {s : State} (r : Ret) (hi : s.Inv) : ({ s with ret := r } : State).Inv := hi

/-- How an operation that takes at most the error `e` keeps the invariants: its normal end must. -/
theorem toOutcome_inv {α : Type} {e : ErrKind} {s t : State} {r : Res α} {f : α → State → State}
    (hi : s.Inv) (hk : Keeps e s r) (hm : s.mode = errMode e) (hf : ∀ a u, Works s u → (f a u).Inv)
    (h : r.toOutcome f = .next t) : t.Inv := by
  cases hk with
  | ok hw => exact Host.Outcome.next.inj h ▸ hf _ _ hw
  | raised hw => exact Host.Outcome.next.inj h ▸ raise_inv hi hw hm
  | stop => cases h

/-- The same where the normal end is a control transfer along an arrow of R227. -/
theorem toOutcome_goto_inv {α : Type} {e : ErrKind} {s t : State} {r : Res α} {p : Phase} (q : Phase)
    (hi : s.Inv) (hk : Keeps e s r) (hm : s.mode = errMode e) (hs : s.phase = p)
    (ha : controllerArrow p q = true) (hq : q ≠ .error) (hstack : s.stack = [])
    (h : r.toOutcome (fun _ u => goto q u) = .next t) : t.Inv :=
  toOutcome_inv hi hk hm (fun _ _ hw => goto_inv hi hw hs ha hq hstack) h

@[simp] theorem after_next (t : State) (f : State → State) :
    after (.next t) f = .next (if t.phase = .error then t else f t) := by
  change (if t.phase = .error then _ else _) = _
  split <;> rfl

theorem after_eq_next {o : Host.Outcome State Fault Refusal} {f : State → State} {t : State} :
    after o f = .next t ↔ ∃ u, o = .next u ∧ (if u.phase = .error then u else f u) = t := by
  cases o with
  | next u => simp
  | fault e => simp [after]
  | refused r => simp [after]

/-- The same where a control transfer follows the operation: it is made at the normal end only. -/
theorem after_toOutcome_inv {α : Type} {e : ErrKind} {s t : State} {r : Res α} {g : α → State → State}
    {f : State → State} (hi : s.Inv) (hk : Keeps e s r) (hm : s.mode = errMode e) (hs : s.phase ≠ .error)
    (hg : ∀ a u, (g a u).phase = u.phase) (hf : ∀ a u, Works s u → (f (g a u)).Inv)
    (h : after (r.toOutcome g) f = .next t) : t.Inv := by
  obtain ⟨u, hu, rfl⟩ := after_eq_next.mp h
  cases hk with
  | @ok a v hw =>
    obtain rfl := Host.Outcome.next.inj hu
    rw [if_neg (by rw [hg, hw.phase]; exact hs)]
    exact hf _ _ hw
  | raised hw =>
    obtain rfl := Host.Outcome.next.inj hu
    rw [if_pos (raise_phase _ _)]
    exact raise_inv hi hw hm
  | stop => cases hu

/-! ### The phases performed whole -/

/-- The operation of a phase that one step performs whole (R190, R205; log 3). -/
def wholePhase : Phase → Option Instr
  | .cBuild => some .cBuild
  | .cCodes => some .cCodes
  | .cMagic => some .cMagic
  | .cHeader => some .cHeader
  | .cRewind => some .cRewind
  | .cEof => some .cEof
  | .cFlush => some .cFlush
  | .dRootchk => some .dRootchk
  | .dClose => some .dClose
  | .idle | .cCount | .cBody | .dMagic | .dHeader | .dBody | .done | .error => none

/-- A control transfer that changes nothing may be left out. -/
theorem after_id (o : Host.Outcome State Fault Refusal) : after o (fun t => t) = o := by
  cases o with
  | next t => rw [after_next, ite_self]
  | fault e => rfl
  | refused r => rfl

theorem controllerTurn_whole {s : State} {i : Instr} (h : wholePhase s.phase = some i) :
    controllerTurn s = exec i s := by
  have hfetch : fetch s = .op i s := by
    unfold fetch
    cases hp : s.phase <;> simp_all [wholePhase]
  have hfollow : follow s = fun t => t := by
    funext t
    unfold follow
    cases hp : s.phase <;> simp_all [wholePhase]
  rw [controllerTurn_op hfetch, hfollow, after_id]

theorem whole_inv {s t : State} {i : Instr} (hi : s.Inv) (h : wholePhase s.phase = some i)
    (ht : exec i s = .next t) : t.Inv := by
  have hm := modeAgrees hi
  have hstack : s.stack = [] := stack_eq_nil hi fun hp => by simp [hp, wholePhase] at h
  unfold ModeAgrees at hm
  cases hp : s.phase <;> rw [hp] at h hm <;> cases h
  case cBuild =>
    exact toOutcome_goto_inv .cCodes hi (keeps_buildTree (e := .noCode) s) hm hp (by decide) (by decide) hstack ht
  case cCodes =>
    exact toOutcome_goto_inv .cMagic hi (keeps_deriveCodes (e := .noCode) s) hm hp (by decide) (by decide) hstack ht
  case cMagic =>
    obtain rfl := Host.Outcome.next.inj ht
    exact goto_inv hi (works_writeBits _ _ s) hp (by decide) (by decide) hstack
  case cHeader =>
    exact toOutcome_goto_inv .cRewind hi (keeps_serialize (e := .noCode) _ _ s) hm hp (by decide) (by decide) hstack ht
  case cRewind =>
    obtain rfl := Host.Outcome.next.inj ht
    exact goto_inv hi (works_rewindIn s) hp (by decide) (by decide) hstack
  case cEof =>
    exact toOutcome_goto_inv .cFlush hi (keeps_encodeSym _ s) hm hp (by decide) (by decide) hstack ht
  case cFlush =>
    obtain rfl := Host.Outcome.next.inj ht
    exact goto_inv hi (works_closeOut s) hp (by decide) (by decide) hstack
  case dRootchk =>
    change execDRootchk s = _ at ht
    unfold execDRootchk at ht
    split at ht <;> obtain rfl := Host.Outcome.next.inj ht <;>
      exact goto_inv hi (.refl s) hp (by decide) (by decide) hstack
  case dClose =>
    obtain rfl := Host.Outcome.next.inj ht
    exact goto_inv hi (works_closeOut s) hp (by decide) (by decide) hstack

end Sys2Proof.Proofs
end

section
/-! Every step keeps the register invariants: the phases that go round a loop, the marker, and the actions of
the host (R190, R205, R24, R260; log 3, log 4). -/

namespace Sys2Proof.Proofs

open Sys2Proof.Machine Sys2Proof.Laws

/-! ### The looping phases and the marker -/

/-- A result that ends the loop transfers control, any other stays in the loop (R191, R210). -/
theorem leaveLoop_inv {s u : State} {p q : Phase} (r last : Ret) (hi : s.Inv) (hw : Works s u)
    (hs : s.phase = p) (ha : controllerArrow p q = true) (hq : q ≠ .error) (hstack : s.stack = []) :
    (if r = last then goto q { u with ret := r } else { u with ret := r }).Inv := by
  split
  · exact (goto_inv hi hw hs ha hq hstack : (goto q u).Inv)
  · exact setRet_inv r (hw.inv hi)

/-- C_COUNT: FC.CLEAR once, then FC.COUNT until the end of the source (R191). -/
theorem countTurn_inv {s t : State} (hi : s.Inv) (hp : s.phase = .cCount) (h : controllerTurn s = .next t) :
    t.Inv := by
  have hm : s.mode = 0 := by simpa [ModeAgrees, hp] using modeAgrees hi
  have hstack : s.stack = [] := stack_eq_nil hi (by simp [hp])
  by_cases hstart : s.micro = .start
  · rw [controllerTurn_op (i := .fcClear) (t := s) (by simp [fetch, hp, hstart])] at h
    have hw := works_clearCounts s
    change after (.next (clearCounts s)) _ = _ at h
    rw [after_next, if_neg (by simp [hw.phase, hp])] at h
    obtain rfl := Host.Outcome.next.inj h
    have hfollow : follow s (clearCounts s) = { clearCounts s with micro := .loop } := by
      simp [follow, hp, hstart]
    exact hfollow ▸ setMicro_inv .loop (hw.inv hi) (.inr (by decide))
  · rw [controllerTurn_op (i := .fcCount) (t := s) (by simp [fetch, hp, hstart])] at h
    refine after_toOutcome_inv hi (keeps_countOne s) hm (by simp [hp]) ?_ (fun more u hw => ?_) h
    · exact fun _ _ => rfl
    have hfollow : ∀ x : State, follow s x = if x.ret = .finished then goto .cBuild x else x := by
      simp [follow, hp, hstart]
    rw [hfollow]
    exact leaveLoop_inv _ _ hi hw hp (by decide) (by decide) hstack

/-- READBITS 8 leaves the byte, or EOF, in the result register (R125). -/
theorem exec_readbits_eight (s : State) :
    ∃ r, exec (.readbits 8) s = .next { (readBits 8 s).2 with ret := r } ∧ (r = .eof ∨ ∃ v, r = .value v) := by
  change ∃ r, execReadbits 8 s = _ ∧ _
  unfold execReadbits
  rw [if_pos (by decide)]
  rcases readBits 8 s with ⟨_ | v, t⟩
  · exact ⟨_, rfl, .inl rfl⟩
  · exact ⟨_, rfl, .inr ⟨v, rfl⟩⟩

/-- C_BODY, about to read a byte (R198). -/
theorem bodyReadTurn_inv {s t : State} (hi : s.Inv) (hp : s.phase = .cBody) (hmicro : ∀ v, s.micro ≠ .encode v)
    (h : controllerTurn s = .next t) : t.Inv := by
  have hstack : s.stack = [] := stack_eq_nil hi (by simp [hp])
  have hw := works_readBits 8 s
  obtain ⟨r, hr, hcase⟩ := exec_readbits_eight s
  have hfetch : fetch s = .op (.readbits 8) s := by
    rcases hs : s.micro with _ | _ | v
    · simp [fetch, hp, hs]
    · simp [fetch, hp, hs]
    · exact absurd hs (hmicro v)
  have hfollow : ∀ x : State, follow s x = match x.ret with
      | .eof => goto .cEof x
      | .value v => { x with micro := .encode (v.setWidth 8) }
      | _ => x := by
    intro x
    rcases hs : s.micro with _ | _ | v
    · rcases hx : x.ret <;> simp [follow, hp, hs, hx]
    · rcases hx : x.ret <;> simp [follow, hp, hs, hx]
    · exact absurd hs (hmicro v)
  rw [controllerTurn_op hfetch, hr, after_next, if_neg (by simp [hw.phase, hp]), hfollow] at h
  obtain rfl := Host.Outcome.next.inj h
  rcases hcase with rfl | ⟨v, rfl⟩
  · change (goto .cEof (readBits 8 s).2).Inv
    exact goto_inv hi hw hp (by decide) (by decide) hstack
  · exact setMicro_inv _ (setRet_inv _ (hw.inv hi)) (.inr (by simp))

/-- C_BODY, holding the byte just read (R197, R198). -/
theorem bodyEncodeTurn_inv {s t : State} {v : Byte} (hi : s.Inv) (hp : s.phase = .cBody)
    (hmicro : s.micro = .encode v) (h : controllerTurn s = .next t) : t.Inv := by
  have hm : s.mode = 0 := by simpa [ModeAgrees, hp] using modeAgrees hi
  have hstack : s.stack = [] := stack_eq_nil hi (by simp [hp])
  rw [controllerTurn_op (i := .encSym (symOfByte v)) (t := s) (by simp [fetch, hp, hmicro])] at h
  refine after_toOutcome_inv hi (keeps_encodeSym _ s) hm (by simp [hp]) (fun _ _ => rfl) (fun _ u hw => ?_) h
  have hfollow : follow s u = { u with micro := .start } := by simp [follow, hp, hmicro]
  exact hfollow ▸ setMicro_inv .start (hw.inv hi) (.inl (hw.stack.trans hstack))

/-- D_MAGIC: the marker is compared when all its bits are there (R206). -/
theorem magicTurn_inv {s t : State} (hi : s.Inv) (hp : s.phase = .dMagic) (h : controllerTurn s = .next t) :
    t.Inv := by
  have hm : s.mode = 1 := by simpa [ModeAgrees, hp] using modeAgrees hi
  have hstack : s.stack = [] := stack_eq_nil hi (by simp [hp])
  have hw := works_readBits 32 s
  have hfetch : fetch s = fetchMagic s := by simp [fetch, hp]
  have hfollow : follow s = fun u => u := by funext u; simp [follow, hp]
  rw [controllerTurn, hfetch, fetchMagic, hfollow] at h
  generalize readBits 32 s = g at h hw
  obtain ⟨_ | m, u⟩ := g
  · obtain rfl := Host.Outcome.next.inj h
    exact raise_inv hi hw hm
  · obtain rfl := Host.Outcome.next.inj ((after_id _).symm.trans h)
    unfold checkMagic
    split
    · exact goto_inv hi hw hp (by decide) (by decide) hstack
    · exact raise_inv hi hw hm

/-- A header token leaves the unfinished calls on the stack, and a result only when there is none; the control
transfer at the last subtree then finds an empty stack (R177, R35, R207). -/
theorem follow_header_inv {s u : State} {k : List Frame} {r : Ret} (hi : s.Inv) (hp : s.phase = .dHeader)
    (hloop : s.micro ≠ .start) (hw : Works s u) (hk : k.length ≤ maxDepth) (hr : k = [] ∨ r = .none) :
    (follow s { u with stack := k, ret := r }).Inv := by
  have hphase : u.phase = .dHeader := hw.phase.trans hp
  obtain ⟨hpacker, hcounts, herr, hmode, -, hpos⟩ := hw.inv hi
  have hu : ({ u with stack := k, ret := r } : State).Inv :=
    ⟨hpacker, hcounts, herr, hmode, ⟨fun _ => ⟨hphase, hw.micro ▸ hloop⟩, hk⟩, hpos⟩
  have hfollow : ∀ x : State, follow s x = match x.ret with
      | .node n => goto .dRootchk { x with root := n }
      | _ => x := by
    intro x
    rcases hx : x.ret <;> simp [follow, hp, hloop, hx]
  rw [hfollow]
  split
  next n hn =>
    have hnil : k = [] := hr.resolve_right (by rintro rfl; cases hn)
    exact goto_inv hu works_tables hphase (by decide) (by decide) hnil
  next => exact hu

/-- An internal token pushes one entry, if there is room (R177, R35). -/
theorem pushNode_eq_ok {n : NodeIx} {s t : State} {a : Unit} :
    pushNode n s = .ok a t ↔
      s.stack.length < maxDepth ∧ t = { s with stack := ⟨n, .left⟩ :: s.stack, ret := .none } := by
  unfold pushNode
  split <;> simp_all [eq_comm]

theorem pushNode_ne_raised {n : NodeIx} {s t : State} : pushNode n s ≠ .raised t := by
  unfold pushNode
  split <;> simp

/-- An error in a header token is malformed-header, and it ends the step (R178 to R180, R236). -/
theorem headerError_inv {α : Type} {s u x : State} {r : Res α} (hi : s.Inv) (hm : s.mode = 1) (hw : Works s u)
    (hk : Keeps .malformedHeader u r) (hr : r = .raised x) :
    (if x.phase = .error then x else follow s x).Inv := by
  subst hr
  cases hk with | raised hv =>
  rw [if_pos (raise_phase _ _)]
  exact raise_inv hi (hw.trans hv) hm

/-- NODE.INTERNAL in the header's loop (R92, R177). -/
theorem internalTurn_inv {s u t : State} (hi : s.Inv) (hp : s.phase = .dHeader) (hloop : s.micro ≠ .start)
    (hw : Works s u) (h : after (exec .nodeInternal u) (follow s) = .next t) : t.Inv := by
  have hm : s.mode = 1 := by simpa [ModeAgrees, hp] using modeAgrees hi
  have hk := keeps_makeInternal u
  obtain ⟨x, hx, rfl⟩ := after_eq_next.mp h
  rcases toOutcome_eq_next.mp hx with ⟨_, _, hok, rfl⟩ | hraised
  · obtain ⟨n, v, hmake, hpush⟩ := bind_eq_ok.mp hok
    obtain ⟨hroom, rfl⟩ := pushNode_eq_ok.mp hpush
    rw [hmake] at hk
    cases hk with | ok hv =>
    have hv := hw.trans hv
    rw [if_neg (by simp [hv.phase, hp])]
    exact follow_header_inv hi hp hloop hv hroom (.inr rfl)
  · rcases bind_eq_raised.mp hraised with hmake | ⟨_, _, -, hpush⟩
    · exact headerError_inv hi hm hw hk hmake
    · exact absurd hpush pushNode_ne_raised

/-- NODE.LEAF in the header's loop (R93, R177). -/
theorem leafTurn_inv {s u t : State} (v : BitVec 9) (hi : s.Inv) (hp : s.phase = .dHeader)
    (hloop : s.micro ≠ .start) (hw : Works s u) (h : after (exec (.nodeLeaf v) u) (follow s) = .next t) :
    t.Inv := by
  have hm : s.mode = 1 := by simpa [ModeAgrees, hp] using modeAgrees hi
  have hk := keeps_makeLeaf v u
  obtain ⟨x, hx, rfl⟩ := after_eq_next.mp h
  rcases toOutcome_eq_next.mp hx with ⟨n, w, hmake, rfl⟩ | hraised
  · rw [hmake] at hk
    cases hk with | ok hv =>
    obtain ⟨y, k, r, hy, hreturn, hk, hr⟩ := returnNode_works n w.stack w
    have hy := (hw.trans hv).trans hy
    rw [hreturn, if_neg (by simp [hy.phase, hp])]
    refine follow_header_inv hi hp hloop hy (hk.trans ?_) hr
    rw [hv.stack, hw.stack]
    exact stack_length_le hi
  · exact headerError_inv hi hm hw hk hraised

/-- D_HEADER: HDR.INIT once, then one token after another (R207). -/
theorem headerTurn_inv {s t : State} (hi : s.Inv) (hp : s.phase = .dHeader) (h : controllerTurn s = .next t) :
    t.Inv := by
  have hm : s.mode = 1 := by simpa [ModeAgrees, hp] using modeAgrees hi
  by_cases hstart : s.micro = .start
  · rw [controllerTurn_op (i := .hdrInit) (t := s) (by simp [fetch, hp, hstart])] at h
    have hw := works_initHeader s
    change after (.next (initHeader s)) _ = _ at h
    rw [after_next, if_neg (by simp [hw.phase, hp])] at h
    obtain rfl := Host.Outcome.next.inj h
    have hfollow : follow s (initHeader s) = { initHeader s with micro := .loop } := by
      simp [follow, hp, hstart]
    exact hfollow ▸ setMicro_inv .loop (hw.inv hi) (.inr (by decide))
  · have hw := works_fetchNode s
    have hfetch : fetch s = fetchHeader s := by simp [fetch, hp, hstart]
    rw [controllerTurn, hfetch, fetchHeader] at h
    generalize fetchNode s = g at h hw
    obtain ⟨_ | k, u⟩ := g
    · obtain rfl := Host.Outcome.next.inj h
      exact raise_inv hi hw hm
    · cases k with
      | internal => exact internalTurn_inv hi hp hstart hw h
      | leaf v => exact leafTurn_inv v hi hp hstart hw h

/-- One DEC.STEP of D_BODY (R209, R210). -/
theorem decodeTurn_inv {s u t : State} (hp : s.phase = .dBody) (hi : u.Inv) (hu : u.phase = .dBody)
    (h : after (exec .decStep u) (follow s) = .next t) : t.Inv := by
  have hm : u.mode = 1 := by simpa [ModeAgrees, hu] using modeAgrees hi
  have hstack : u.stack = [] := stack_eq_nil hi (by simp [hu])
  refine after_toOutcome_inv hi (keeps_decodeStep u) hm (by simp [hu]) ?_ (fun stop v hw => ?_) h
  · exact fun _ _ => rfl
  have hfollow : ∀ x : State, follow s x = if x.ret = .stop then goto .dClose x else x := by
    simp [follow, hp]
  rw [hfollow]
  exact leaveLoop_inv _ _ hi hw hu (by decide) (by decide) hstack

/-- D_BODY: the walk starts at the root (R210). -/
theorem bodyDecodeTurn_inv {s t : State} (hi : s.Inv) (hp : s.phase = .dBody) (h : controllerTurn s = .next t) :
    t.Inv := by
  by_cases hstart : s.micro = .start
  · rw [controllerTurn_op (i := .decStep) (t := { s with cur := s.root, micro := .loop })
      (by simp [fetch, hp, hstart])] at h
    have hstarted := setMicro_inv .loop ((works_setCur s.root s).inv hi) (.inr (by decide))
    exact decodeTurn_inv hp hstarted hp h
  · rw [controllerTurn_op (i := .decStep) (t := s) (by simp [fetch, hp, hstart])] at h
    exact decodeTurn_inv hp hi hp h

/-! ### Every turn -/

theorem controllerTurn_inv {s t : State} (hi : s.Inv) (h : controllerTurn s = .next t) : t.Inv := by
  have hrest : fetch s = .rest → t.Inv := fun hf => by
    rw [controllerTurn, hf] at h
    exact Host.Outcome.next.inj h ▸ hi
  have hwhole : ∀ i, wholePhase s.phase = some i → t.Inv := fun i hp =>
    whole_inv hi hp (controllerTurn_whole hp ▸ h)
  cases hp : s.phase with
  | idle | done | error => exact hrest (by simp [fetch, hp])
  | cBuild | cCodes | cMagic | cHeader | cRewind | cEof | cFlush | dRootchk | dClose =>
    exact hwhole _ (by rw [hp]; rfl)
  | cCount => exact countTurn_inv hi hp h
  | cBody =>
    cases hmicro : s.micro with
    | start | loop => exact bodyReadTurn_inv hi hp (by simp [hmicro]) h
    | encode v => exact bodyEncodeTurn_inv hi hp hmicro h
  | dMagic => exact magicTurn_inv hi hp h
  | dHeader => exact headerTurn_inv hi hp h
  | dBody => exact bodyDecodeTurn_inv hi hp h

/-- The machine after power-on meets the invariants, whatever its free values are (R37). -/
theorem powerOn_inv (par : Params) (k : Nat) (hw : 1 ≤ par.w) : (State.powerOn par k).Inv := by
  have hpos : 0 < 2 ^ par.w := Nat.two_pow_pos _
  refine ⟨packerClean_empty rfl, ⟨hw, Nat.mod_lt _ hpos, fun y => ?_, fun i => ?_⟩, ?_, rfl,
    ⟨fun h => absurd rfl h, Nat.zero_le _⟩, le_rfl⟩
  · simp only [State.powerOn, get_table]
    exact Nat.mod_lt _ hpos
  · simp only [nodeAt, State.powerOn, get_table]
    exact Nat.mod_lt _ hpos
  · simp [ErrAgrees, State.powerOn]

/-- Reset and CLEAR leave the power-on state with the host's streams (R223, R260). -/
theorem resetAll_inv {s : State} (hi : s.Inv) : (resetAll s).Inv := by
  obtain ⟨hd, -⟩ := (inv_iff s).mp hi
  obtain ⟨hpacker, hcounts, herr, hmode, hstack, -⟩ := powerOn_inv s.par s.fresh hd.counts.1
  exact ⟨hpacker, hcounts, herr, hmode, hstack, hd.pos⟩

/-- COMPRESS and DECOMPRESS from IDLE: the mode is set and the first phase entered (R221, R222). -/
theorem start_inv {s : State} (m : BitVec 1) (p : Phase) (hi : s.Inv) (hs : s.phase = .idle) (hp : p ≠ .error)
    (hm : ModeAgrees (goto p (initChannel { s with mode := m }))) :
    (goto p (initChannel { s with mode := m })).Inv := by
  have hstack : s.stack = [] := stack_eq_nil hi (by simp [hs])
  have herr : s.err = 0 := err_eq_zero hi (by simp [hs])
  obtain ⟨-, hcounts, -, -, -, hpos⟩ := hi
  refine ⟨packerClean_empty rfl, hcounts, ?_, hm, ?_, hpos⟩
  · simp [ErrAgrees, herr, hp]
  · simp [StackAgrees, hstack]

/-- A command byte is one of the five commands (R100). -/
theorem decodeCmd_cases (c : Byte) :
    decodeCmd c = .nop ∨ decodeCmd c = .compress ∨ decodeCmd c = .decompress ∨ decodeCmd c = .clear ∨
      decodeCmd c = .cmdReserved c := by
  unfold decodeCmd
  split_ifs <;> simp

/-- Every command keeps the invariants (R220 to R224). -/
theorem command_inv {s t : State} (c : Byte) (hi : s.Inv) (h : exec (decodeCmd c) s = .next t) : t.Inv := by
  rcases decodeCmd_cases c with hc | hc | hc | hc | hc <;> rw [hc] at h
  · exact Host.Outcome.next.inj h ▸ hi
  · change (if s.phase = .idle then _ else _) = _ at h
    split at h <;> obtain rfl := Host.Outcome.next.inj h
    next hp => exact start_inv 0 .cCount hi hp (by decide) rfl
    next => exact hi
  · change (if s.phase = .idle then _ else _) = _ at h
    split at h <;> obtain rfl := Host.Outcome.next.inj h
    next hp => exact start_inv 1 .dMagic hi hp (by decide) rfl
    next => exact hi
  · change (if isBusy s.phase then _ else _) = _ at h
    split at h <;> obtain rfl := Host.Outcome.next.inj h
    next => exact hi
    next => exact resetAll_inv hi
  · change (if s.phase = .idle then _ else _) = _ at h
    split at h <;> obtain rfl := Host.Outcome.next.inj h
    next hp =>
      have hm : s.mode = 0 := by simpa [ModeAgrees, hp] using modeAgrees hi
      exact raise_inv hi (.refl s) hm
    next => exact hi

/-- Every action of the host keeps the invariants (R14, R15, R60, R61, R260). -/
theorem hostTurn_inv {s t : State} (e : HostEvent) (hi : s.Inv) (h : hostTurn e s = .next t) : t.Inv := by
  cases e with
  | write c => exact command_inv c hi h
  | readStatus => exact Host.Outcome.next.inj h ▸ setRet_inv _ hi
  | reset => exact Host.Outcome.next.inj h ▸ resetAll_inv hi
  | source bytes pos =>
    obtain rfl := Host.Outcome.next.inj h
    obtain ⟨hpacker, hcounts, herr, hmode, hstack, -⟩ := hi
    exact ⟨hpacker, hcounts, herr, hmode, hstack, Nat.min_le_right _ _⟩
  | sink => exact Host.Outcome.next.inj h ▸ hi
  | wait => exact controllerTurn_inv hi h
  | stall => exact Host.Outcome.next.inj h ▸ hi

/-- Settles O16: the invariants are those of the datapath, which every unit operation keeps, and of the control
registers, which only error entry, control transfers, header tokens and the host's actions write. -/
theorem invariantKept : Obligations.InvariantKept := by
  intro s t hi h
  cases hhost : s.host with
  | nil => exact controllerTurn_inv hi (step_quiet hhost ▸ h)
  | cons e rest => exact hostTurn_inv (s := { s with host := rest }) e hi (step_host hhost ▸ h)

/-- Settles O15: after reset the machine is in IDLE, where no phase relies on anything. -/
theorem liveAtReset : Obligations.LiveAtReset := by
  have hi : State.reset.Inv := powerOn_inv _ _ (by decide)
  refine ⟨hi, hi, ?_, ?_, ?_, ?_⟩ <;>
    simp [CountsAgree, TreeReady, EofCoded, HeaderAccount, State.reset, State.powerOn]

end Sys2Proof.Proofs
end

section
/-! Where an operation's precondition does not hold (log 11, log 12, log 13), and what a step does with a host
action pending (log 3, log 4). -/

namespace Sys2Proof.Proofs

open Sys2Proof.Machine Sys2Proof.Laws

/-! ### Too few nodes alive -/

theorem minNode_eq_none {s : State} (h : ∀ i : NodeIx, i.val < s.nodeCnt.val → s.alive.get i = false) :
    minNode s = none := by
  have hnil : aliveNodes s = [] := List.eq_nil_iff_forall_not_mem.mpr fun i hi => by
    obtain ⟨hlt, halive⟩ := mem_aliveNodes.mp hi
    simp [h i hlt] at halive
  rw [minNode, hnil]
  rfl

/-- TB.MIN finds a node as soon as one is alive (R151). -/
theorem minNode_isSome {s : State} {j : NodeIx} (hlt : j.val < s.nodeCnt.val) (halive : s.alive.get j = true) :
    ∃ i, minNode s = some i :=
  Option.isSome_iff_exists.mp <|
    leastOf_isSome s _ (List.ne_nil_of_mem (mem_aliveNodes.mpr ⟨hlt, halive⟩))

theorem mergeTwo_none_alive {s : State} (h : minNode s = none) : mergeTwo s = .stop .noAliveNode := by
  unfold mergeTwo
  simp only [h]

/-- With a single node alive the second search of TB.MERGE finds none (R152). -/
theorem mergeTwo_one_alive {s : State} {j : NodeIx} (hlt : j.val < s.nodeCnt.val) (halive : s.alive.get j = true)
    (honly : ∀ i : NodeIx, i.val < s.nodeCnt.val → s.alive.get i = true → i = j) :
    mergeTwo s = .stop .noAliveNode := by
  obtain ⟨a, ha⟩ := minNode_isSome hlt halive
  obtain rfl : a = j := honly a (minNode_alive ha).1 (minNode_alive ha).2
  have hnone : minNode (setAlive a false s) = none := minNode_eq_none fun i hi => by
    rcases eq_or_ne a i with rfl | hne
    · exact alive_setAlive_same _ _ _
    · rw [alive_setAlive_ne _ _ hne, ← Bool.not_eq_true]
      exact fun halive' => hne (honly i hi halive').symm
  unfold mergeTwo
  simp only [ha, hnone]

/-! ### Node memory full -/

theorem newNode_full {s : State} (x : Node) (h : s.nodeCnt.val = 513) : newNode x s = .stop .nodeMemoryFull := by
  rw [newNode, dif_neg (by omega)]

/-- With two nodes alive both searches of TB.MERGE succeed, and the new node has no entry (R27, R152). -/
theorem mergeTwo_full {s : State} {p q : NodeIx} (hfull : s.nodeCnt.val = 513) (hpq : p ≠ q)
    (hp : s.alive.get p = true) (hq : s.alive.get q = true) : mergeTwo s = .stop .nodeMemoryFull := by
  have hlt : ∀ i : NodeIx, i.val < s.nodeCnt.val := fun i => by rw [hfull]; exact i.isLt
  obtain ⟨a, ha⟩ := minNode_isSome (hlt p) hp
  obtain ⟨r, hr, hralive⟩ : ∃ r, a ≠ r ∧ s.alive.get r = true := by
    rcases eq_or_ne a p with rfl | hne
    · exact ⟨q, hpq, hq⟩
    · exact ⟨p, hne, hp⟩
  obtain ⟨b, hb⟩ := minNode_isSome (s := setAlive a false s) (hlt r) ((alive_setAlive_ne _ _ hr).trans hralive)
  unfold mergeTwo
  simp only [ha, hb, newNode_full (s := setAlive b false (setAlive a false s)) _ hfull, bind_stop]

theorem makeInternal_full {s : State} (hfull : s.nodeCnt.val = 513) (h : s.intCnt.val < 256) :
    makeInternal s = .stop .nodeMemoryFull := by
  rw [makeInternal, dif_pos h]
  exact newNode_full _ hfull

theorem symOfLeaf_val {v : BitVec 9} {y : Sym} (h : v.toNat = y.val) : symOfLeaf v = some y := by
  simp [symOfLeaf, h]

theorem makeLeaf_full {s : State} {v : BitVec 9} {y : Sym} (hfull : s.nodeCnt.val = 513) (hv : v.toNat = y.val)
    (hseen : s.seen.get y = false) : makeLeaf v s = .stop .nodeMemoryFull := by
  simp only [makeLeaf, symOfLeaf_val hv, hseen]
  exact newNode_full _ hfull

/-! ### A walk too deep -/

/-- From `c k` down to `c n` an unbroken chain of Internal nodes, each the left child of the one before. -/
def LeftChain (s : State) (c : Nat → NodeIx) (n : Nat) : Prop :=
  (∀ k, k ≤ n → (nodeAt s (c k)).kind = .internal) ∧ ∀ k, k < n → (nodeAt s (c k)).left = c (k + 1)

theorem LeftChain.of_node_eq {s t : State} {c : Nat → NodeIx} {n : Nat} (h : LeftChain s c n)
    (hn : t.node = s.node) : LeftChain t c n := by
  unfold LeftChain nodeAt at *
  rwa [hn]

/-- The walk of CT.WALK meets `d` levels below `c k` and finds the chain going on (R165, R35). -/
theorem walkCodes_too_deep {s : State} {c : Nat → NodeIx} {n : Nat} (h : LeftChain s c n) (d k : Nat)
    (path : BitString) (hk : k + d ≤ n) : walkCodes d (c k) path s = .stop .walkTooDeep := by
  obtain ⟨hkind, hleft⟩ := h
  induction d generalizing k path with
  | zero => rw [walkCodes, hkind k hk]
  | succ d ih =>
    rw [walkCodes, hkind k (by omega)]
    dsimp only
    rw [hleft k (by omega), ih (k + 1) _ (by omega)]
    rfl

/-- The same for HDR.SER, whose tag bits leave the nodes alone (R175, R35). -/
theorem serialize_too_deep {s : State} {c : Nat → NodeIx} {n : Nat} (h : LeftChain s c n) (d k : Nat)
    (hk : k + d ≤ n) : serialize d (c k) s = .stop .walkTooDeep := by
  induction d generalizing k s with
  | zero => rw [serialize, h.1 k hk]
  | succ d ih =>
    rw [serialize, h.1 k (by omega)]
    dsimp only
    rw [h.2 k (by omega), ih (h.of_node_eq (putBit_node _ _)) (k + 1) (by omega)]
    rfl

theorem deriveCodes_too_deep {s : State} {c : Nat → NodeIx} (h : LeftChain s c maxDepth) (hroot : s.root = c 0) :
    deriveCodes s = .stop .walkTooDeep := by
  rw [deriveCodes, hroot]
  exact walkCodes_too_deep (h.of_node_eq (t := clearCodes s) rfl) _ 0 [] (by omega)

theorem pushNode_full {s : State} (n : NodeIx) (h : maxDepth ≤ s.stack.length) :
    pushNode n s = .stop .walkTooDeep := by
  rw [pushNode, if_neg (by omega)]

/-- A header token that needs a 257th entry of the stack (R35). -/
theorem internal_too_deep {s : State} (hint : s.intCnt.val < 256) (hfree : s.nodeCnt.val < 513)
    (h : maxDepth ≤ s.stack.length) : (makeInternal s).bind pushNode = .stop .walkTooDeep := by
  rw [makeInternal, dif_pos hint, newNode, dif_pos hfree, bind_ok]
  exact pushNode_full _ h

/-- The outcome of an operation that stops. -/
theorem toOutcome_of_stop {α : Type} {r : Res α} {e : Fault} (f : α → State → State) (h : r = .stop e) :
    r.toOutcome f = .fault e := h ▸ rfl

theorem exec_tbMerge_of_stop {s : State} {e : Fault} (h : mergeTwo s = .stop e) : exec .tbMerge s = .fault e := by
  have hexec : exec .tbMerge s = (mergeTwo s).toOutcome fun _ t => t := rfl
  rw [hexec, toOutcome_of_stop _ h]

/-- Settles O14: each stop from the lemma on the shared operation that stops. -/
theorem namedStops : Obligations.NamedStops := by
  intro s
  refine ⟨fun hnone => ?_, fun j hlt halive honly => ?_, fun hfull => ⟨fun p q hpq hp hq => ?_, fun hint => ?_,
    fun v y hv hseen => ?_⟩, fun hint hfree hstack => ?_, fun c hkind hleft => ⟨?_, fun path hpath => ?_,
    fun hroot => ?_⟩, fun n v hn => ⟨?_, ?_⟩, fun i path hpath => ?_⟩
  · have hmin := minNode_eq_none hnone
    refine ⟨?_, exec_tbMerge_of_stop (mergeTwo_none_alive hmin)⟩
    change execTbMin s = _
    unfold execTbMin
    simp only [hmin]
  · exact exec_tbMerge_of_stop (mergeTwo_one_alive hlt halive honly)
  · exact exec_tbMerge_of_stop (mergeTwo_full hfull hpq hp hq)
  · exact toOutcome_of_stop _ (congrArg (Res.bind · pushNode) (makeInternal_full hfull hint))
  · exact toOutcome_of_stop _ (makeLeaf_full hfull hv hseen)
  · exact toOutcome_of_stop _ (internal_too_deep hint hfree hstack)
  · exact toOutcome_of_stop _ (serialize_too_deep ⟨hkind, hleft⟩ _ 0 (by omega))
  · change execCtWalk (c 0) path s = _
    rw [execCtWalk, if_pos hpath]
    exact toOutcome_of_stop _ (walkCodes_too_deep ⟨hkind, hleft⟩ _ 0 path (by omega))
  · exact toOutcome_of_stop _ (deriveCodes_too_deep ⟨hkind, hleft⟩ hroot)
  · change execWritebits n v s = _
    simp [execWritebits, hn]
  · change execReadbits n s = _
    simp [execReadbits, hn]
  · change execCtWalk i path s = _
    rw [execCtWalk, if_neg (by omega)]

/-! ### The host's action is the step -/

/-- The bits of a byte decode as its command (R100). -/
theorem decode_cmd_bitsOf (c : Byte) : decode .cmd (bitsOf 8 c.toNat) = .ok (decodeCmd c) := by
  have hc : BitVec.ofNat 8 (numeral (bitsOf 8 c.toNat)) = c := by
    rw [numeral_bitsOf, Nat.mod_eq_of_lt c.isLt, BitVec.ofNat_toNat, BitVec.setWidth_eq]
  rw [decode, if_pos (bitsOf_length _ _), hc]

/-- Settles O4: each action by the arm of `hostTurn` that takes it. -/
theorem stepRunsHostAction : Obligations.StepRunsHostAction := by
  intro s rest
  refine ⟨fun c i h hc => ?_, fun h => ?_, fun h => ?_, fun bytes pos h => ?_, fun h => ?_, fun h => ?_⟩ <;>
    rw [step_host h]
  · obtain rfl := Except.ok.inj ((decode_cmd_bitsOf c).symm.trans hc)
    rfl
  · rfl
  · rfl
  · exact ⟨_, rfl, rfl, Nat.min_le_right _ _, Nat.min_eq_left, Nat.min_eq_right⟩
  · rfl
  · rfl

end Sys2Proof.Proofs
end

section
/-! The write sets of the phases and the order of the stream transactions (R73, R70): the work of a phase writes
its own tables, appends to the trace and, while the sink is open, to OUT; a turn of the controller is such work,
followed at most by one control transfer, by the closing of the sink, or by error entry. -/

namespace Sys2Proof.Proofs

open Sys2Proof.Machine Sys2Proof.Laws

/-! ### What the work of a phase leaves alone -/

/-- What must stay: nothing where `c` allows the write, else the contents `x`. -/
def keptUnless {α : Type} (c : Prop) [Decidable c] (x : α) : Option α := if c then none else some x

theorem keptUnless_eq_iff {α : Type} {c : Prop} [Decidable c] {x y : α} :
    keptUnless c x = keptUnless c y ↔ (¬c → x = y) := by
  by_cases h : c <;> simp [keptUnless, h]

/-- The tables and registers that a phase does not write (R26 to R32, R23). -/
structure Tables where
  nodes : Option (Vector Node 513 × Fin 514 × NodeIx)
  alive : Option (Vector Bool 513)
  codes : Option (Vector CodeEntry 257 × Vector Bool 257)
  counts : Option (Vector Nat 257 × Nat)
  seen : Option (Vector Bool 257 × Fin 257)
  cur : Option NodeIx
  mode : BitVec 1
  par : Params

/-- The tables and registers that phase `p` does not write, in `s` (R73). -/
def tables (p : Phase) (s : State) : Tables where
  nodes := keptUnless (p = .cBuild ∨ p = .dHeader) (s.node, s.nodeCnt, s.root)
  alive := keptUnless (p = .cBuild) s.alive
  codes := keptUnless (p = .cCodes) (s.code, s.codeValid)
  counts := keptUnless (p = .cCount) (s.freq, s.total)
  seen := keptUnless (p = .dHeader) (s.seen, s.intCnt)
  cur := keptUnless (p = .dBody) s.cur
  mode := s.mode
  par := s.par

theorem tables_eq_iff {p : Phase} {s t : State} :
    tables p t = tables p s ↔
      (p ≠ .cBuild → p ≠ .dHeader → t.node = s.node ∧ t.nodeCnt = s.nodeCnt ∧ t.root = s.root) ∧
      (p ≠ .cBuild → t.alive = s.alive) ∧
      (p ≠ .cCodes → t.code = s.code ∧ t.codeValid = s.codeValid) ∧
      (p ≠ .cCount → t.freq = s.freq ∧ t.total = s.total) ∧
      (p ≠ .dHeader → t.seen = s.seen ∧ t.intCnt = s.intCnt) ∧
      (p ≠ .dBody → t.cur = s.cur) ∧ t.mode = s.mode ∧ t.par = s.par := by
  simp only [tables, Tables.mk.injEq, keptUnless_eq_iff, Prod.mk.injEq, not_or, and_imp, ne_eq]

/-- All that the work of phase `p` leaves alone: the tables of other phases, the phase and the sink's state. -/
def fixed (p : Phase) (s : State) : Tables × Phase × Snk := (tables p s, s.phase, s.snk)

/-- From `s` to `t` the transactions and, while the sink is open, the bytes of OUT only follow those before
(R70 b). -/
structure StreamsGrow (s t : State) : Prop where
  trace : s.trace <+: t.trace
  out : s.snk = .opened → s.out <+: t.out

theorem StreamsGrow.of_eq {s t : State} (htrace : t.trace = s.trace) (hout : t.out = s.out) : StreamsGrow s t :=
  ⟨htrace ▸ List.prefix_rfl, fun _ => hout ▸ List.prefix_rfl⟩

/-- From `s` to `t` is work of phase `p`: it writes no other phase's tables, leaves the sink's state as it
was, and only adds to the streams. -/
structure WorksIn (p : Phase) (s t : State) : Prop extends StreamsGrow s t where
  fixed : fixed p t = fixed p s

namespace WorksIn

variable {p : Phase} {s t u : State}

theorem tables (h : WorksIn p s t) : tables p t = tables p s := congrArg (·.1) h.fixed

theorem phase (h : WorksIn p s t) : t.phase = s.phase := congrArg (·.2.1) h.fixed

theorem snk (h : WorksIn p s t) : t.snk = s.snk := congrArg (·.2.2) h.fixed

theorem trans (h : WorksIn p s t) (k : WorksIn p t u) : WorksIn p s u :=
  ⟨⟨h.trace.trans k.trace, fun ho => (h.out ho).trans (k.out (h.snk.trans ho))⟩, k.fixed.trans h.fixed⟩

/-- Work without a transaction. -/
theorem silent (h : Proofs.fixed p t = Proofs.fixed p s) (htrace : t.trace = s.trace) (hout : t.out = s.out) :
    WorksIn p s t :=
  ⟨.of_eq htrace hout, h⟩

theorem refl (p : Phase) (s : State) : WorksIn p s s := silent rfl rfl rfl

end WorksIn

/-- Every phase may use the sequencing registers. -/
theorem worksIn_sequencing {p : Phase} {s : State} {m : Micro} {l : List Frame} {r : Ret} :
    WorksIn p s { s with micro := m, stack := l, ret := r } := .silent rfl rfl rfl

/-! ### The bit channel, which every phase may use -/

theorem srcNext_trace (s : State) : ∃ r, (srcNext s).2.trace = s.trace ++ [.srcNext r] := by
  unfold srcNext
  split <;> exact ⟨_, rfl⟩

theorem getBit_trace_prefix (s : State) : s.trace <+: (getBit s).2.trace := by
  obtain ⟨r, hr⟩ := srcNext_trace s
  have h : s.trace <+: (srcNext s).2.trace := hr ▸ List.prefix_append _ _
  unfold getBit
  split
  · exact List.prefix_rfl
  · split <;> simp_all

theorem worksIn_getBit (p : Phase) (s : State) : WorksIn p s (getBit s).2 where
  fixed := by rw [getBit_frame]; rfl
  trace := getBit_trace_prefix s
  out _ := (getBit_out s).symm ▸ List.prefix_rfl

theorem worksIn_getBits (p : Phase) (n : Nat) (s : State) : WorksIn p s (getBits n s).2 := by
  induction n generalizing s with
  | zero => exact .refl p s
  | succ n ih =>
    have h := worksIn_getBit p s
    unfold getBits
    generalize getBit s = g at h ⊢
    obtain ⟨_ | b, t⟩ := g
    · exact h
    · have k := h.trans (ih t)
      dsimp only
      generalize getBits n t = g at k ⊢
      obtain ⟨_ | l, u⟩ := g <;> exact k

theorem worksIn_readBits (p : Phase) (n : Nat) (s : State) : WorksIn p s (readBits n s).2 :=
  readBits_snd n s ▸ worksIn_getBits p n s

theorem worksIn_snkPut (p : Phase) (b : Byte) (s : State) : WorksIn p s (snkPut b s) where
  fixed := rfl
  trace := List.prefix_append _ _
  out ho := snkPut_out_opened b s ho ▸ List.prefix_append _ _

theorem worksIn_putBit (p : Phase) (b : Bool) (s : State) : WorksIn p s (putBit b s) := by
  unfold putBit
  dsimp only
  split
  · exact .silent rfl rfl rfl
  · exact (worksIn_snkPut p _ s).trans (.silent rfl rfl rfl)

theorem worksIn_putBits (p : Phase) (l : BitString) (s : State) : WorksIn p s (putBits l s) := by
  induction l generalizing s with
  | nil => exact .refl p s
  | cons b l ih => exact (worksIn_putBit p b s).trans (ih _)

theorem worksIn_writeBits (p : Phase) (n v : Nat) (s : State) : WorksIn p s (writeBits n v s) :=
  worksIn_putBits p _ s

/-- CLOSE flushes what is pending and then closes the sink (R122). -/
theorem closeOut_eq_snkClose (p : Phase) (s : State) : ∃ u, WorksIn p s u ∧ closeOut s = snkClose u := by
  refine ⟨_, ?_, rfl⟩
  split
  · exact (worksIn_snkPut p _ s).trans (.silent rfl rfl rfl)
  · exact .refl p s

/-! ### Operations that may end in an error -/

/-- The operation is work of phase `p`, and so is all it does before it takes an error. -/
inductive RunsIn {α : Type} (p : Phase) (s : State) : Res α → Prop
  | ok {a : α} {t : State} (h : WorksIn p s t) : RunsIn p s (.ok a t)
  | raised {e : ErrKind} {u : State} (h : WorksIn p s u) : RunsIn p s (.raised (raise e u))
  | stop {f : Fault} : RunsIn p s (.stop f)

theorem RunsIn.of_worksIn {α : Type} {p : Phase} {s t : State} {r : Res α} (h : WorksIn p s t)
    (k : RunsIn p t r) : RunsIn p s r := by
  cases k with
  | ok k => exact .ok (h.trans k)
  | raised k => exact .raised (h.trans k)
  | stop => exact .stop

theorem RunsIn.bind {α β : Type} {p : Phase} {s : State} {r : Res α} {f : α → State → Res β}
    (h : RunsIn p s r) (hf : ∀ a t, RunsIn p t (f a t)) : RunsIn p s (r.bind f) := by
  cases h with
  | ok h => exact (hf _ _).of_worksIn h
  | raised h => exact .raised h
  | stop => exact .stop

/-! ### Frequency counter: C_COUNT -/

theorem worksIn_clearCounts (s : State) : WorksIn .cCount s (clearCounts s) := .silent rfl rfl rfl

theorem worksIn_bumpCount (v : Sym) (s : State) : WorksIn .cCount s (bumpCount v s) := .silent rfl rfl rfl

theorem runsIn_countOne (s : State) : RunsIn .cCount s (countOne s) := by
  have h := worksIn_readBits .cCount 8 s
  unfold countOne
  generalize readBits 8 s = g at h ⊢
  obtain ⟨_ | v, t⟩ := g
  · exact .ok h
  · dsimp only
    split
    · exact .raised h
    · exact .ok (h.trans (worksIn_bumpCount _ t))

/-! ### Node memory: C_BUILD and D_HEADER -/

theorem worksIn_setNode {p : Phase} (hp : p = .cBuild ∨ p = .dHeader) (i : NodeIx) (x : Node) (s : State) :
    WorksIn p s (setNode i x s) := by
  rcases hp with rfl | rfl <;> exact .silent rfl rfl rfl

theorem runsIn_newNode {p : Phase} (hp : p = .cBuild ∨ p = .dHeader) (x : Node) (s : State) :
    RunsIn p s (newNode x s) := by
  unfold newNode
  split
  next h =>
    refine .ok ((worksIn_setNode hp ⟨s.nodeCnt.val, h⟩ x s).trans ?_)
    rcases hp with rfl | rfl <;> exact .silent rfl rfl rfl
  next => exact .stop

/-! ### Tree builder: C_BUILD -/

theorem worksIn_nodeMemory {s : State} (n : Vector Node 513) (a : Vector Bool 513) (c : Fin 514) :
    WorksIn .cBuild s { s with node := n, alive := a, nodeCnt := c } := .silent rfl rfl rfl

theorem worksIn_setAlive (i : NodeIx) (b : Bool) (s : State) : WorksIn .cBuild s (setAlive i b s) :=
  worksIn_nodeMemory _ _ _

theorem worksIn_initLeaves (s : State) : WorksIn .cBuild s (initLeaves s) := by
  rw [initLeaves_frame]
  exact worksIn_nodeMemory _ _ _

theorem runsIn_mergeTwo (s : State) : RunsIn .cBuild s (mergeTwo s) := by
  unfold mergeTwo
  split
  · exact .stop
  next a _ =>
    dsimp only
    split
    · exact .stop
    next b _ =>
      refine .of_worksIn ((worksIn_setAlive a false s).trans (worksIn_setAlive b false _)) ?_
      exact (runsIn_newNode (.inl rfl) _ _).bind fun n v => .ok (worksIn_setAlive n true v)

theorem runsIn_mergeLoop (n : Nat) (s : State) : RunsIn .cBuild s (mergeLoop n s) := by
  induction n generalizing s with
  | zero => exact .stop
  | succ n ih =>
    unfold mergeLoop
    split
    · exact (runsIn_mergeTwo s).bind fun _ t => ih t
    · exact .ok (.refl _ s)

theorem runsIn_buildTree (s : State) : RunsIn .cBuild s (buildTree s) := by
  refine .bind (.of_worksIn (worksIn_initLeaves s) (runsIn_mergeLoop _ _)) fun _ t => ?_
  split
  · exact .stop
  · exact .ok (.silent rfl rfl rfl)

/-! ### Code table: C_CODES -/

theorem worksIn_recordCode (y : Sym) (path : BitString) (s : State) :
    WorksIn .cCodes s (recordCode y path s) := .silent rfl rfl rfl

theorem runsIn_walkCodes (d : Nat) (i : NodeIx) (path : BitString) (s : State) :
    RunsIn .cCodes s (walkCodes d i path s) := by
  induction d generalizing i path s with
  | zero =>
    unfold walkCodes
    split
    · exact .ok (worksIn_recordCode _ _ s)
    · exact .stop
  | succ d ih =>
    unfold walkCodes
    split
    · exact .ok (worksIn_recordCode _ _ s)
    · exact (ih _ _ s).bind fun _ t => ih _ _ t

theorem runsIn_deriveCodes (s : State) : RunsIn .cCodes s (deriveCodes s) :=
  .of_worksIn (t := clearCodes s) (.silent rfl rfl rfl) (runsIn_walkCodes _ _ _ _)

/-! ### Header: C_HEADER writes no table, D_HEADER makes the tree -/

theorem runsIn_serialize (p : Phase) (d : Nat) (i : NodeIx) (s : State) : RunsIn p s (serialize d i s) := by
  induction d generalizing i s with
  | zero =>
    unfold serialize
    split
    · exact .ok ((worksIn_putBit p true s).trans (worksIn_writeBits p 9 _ _))
    · exact .stop
  | succ d ih =>
    unfold serialize
    split
    · exact .ok ((worksIn_putBit p true s).trans (worksIn_writeBits p 9 _ _))
    · exact (RunsIn.of_worksIn (worksIn_putBit p false s) (ih _ _)).bind fun _ t => ih _ t

theorem worksIn_initHeader (s : State) : WorksIn .dHeader s (initHeader s) := .silent rfl rfl rfl

theorem worksIn_fetchNode (p : Phase) (s : State) : WorksIn p s (fetchNode s).2 := by
  have h := worksIn_getBit p s
  unfold fetchNode
  generalize getBit s = g at h ⊢
  obtain ⟨_ | b, t⟩ := g
  · exact h
  · have k := h.trans (worksIn_getBits p (tokenTail b) t)
    dsimp only
    generalize getBits (tokenTail b) t = g at k ⊢
    obtain ⟨_ | l, u⟩ := g <;> exact k

theorem runsIn_makeLeaf (v : BitVec 9) (s : State) : RunsIn .dHeader s (makeLeaf v s) := by
  unfold makeLeaf
  split
  · exact .raised (.refl _ s)
  next y _ =>
    split
    · exact .raised (.refl _ s)
    · exact .of_worksIn (t := { s with seen := s.seen.set y.val true y.isLt }) (.silent rfl rfl rfl)
        (runsIn_newNode (.inr rfl) _ _)

theorem runsIn_makeInternal (s : State) : RunsIn .dHeader s (makeInternal s) := by
  unfold makeInternal
  split
  · exact .of_worksIn (t := { s with intCnt := ⟨s.intCnt.val + 1, by omega⟩ }) (.silent rfl rfl rfl)
      (runsIn_newNode (.inr rfl) _ _)
  · exact .raised (.refl _ s)

theorem runsIn_pushNode (p : Phase) (n : NodeIx) (s : State) : RunsIn p s (pushNode n s) := by
  unfold pushNode
  split
  · exact .ok worksIn_sequencing
  · exact .stop

theorem worksIn_returnNode (n : NodeIx) (l : List Frame) (s : State) :
    WorksIn .dHeader s (returnNode n l s) := by
  induction l generalizing n s with
  | nil => exact worksIn_sequencing
  | cons f l ih =>
    obtain ⟨q, side⟩ := f
    cases side with
    | left => exact (worksIn_setNode (.inr rfl) q _ s).trans worksIn_sequencing
    | right => exact (worksIn_setNode (.inr rfl) q _ s).trans (ih q _)

/-! ### Encoder writes no table, decoder step writes CUR: C_BODY, C_EOF, D_BODY -/

theorem runsIn_encodeSym (p : Phase) (y : Sym) (s : State) : RunsIn p s (encodeSym y s) := by
  unfold encodeSym
  split
  · exact .ok (worksIn_putBits p _ s)
  · exact .raised (.refl p s)

theorem worksIn_setCur (i : NodeIx) (s : State) : WorksIn .dBody s { s with cur := i } := .silent rfl rfl rfl

theorem worksIn_decodeEdge (b : Bool) (s : State) : WorksIn .dBody s (decodeEdge b s).2 := by
  unfold decodeEdge
  dsimp only
  generalize (if b then (nodeAt s s.cur).right else (nodeAt s s.cur).left) = i
  have h := worksIn_setCur i s
  split
  · exact h
  · split
    · exact h
    · exact h.trans ((worksIn_writeBits _ 8 _ _).trans (worksIn_setCur _ _))

theorem runsIn_decodeStep (s : State) : RunsIn .dBody s (decodeStep s) := by
  have h := worksIn_getBit .dBody s
  unfold decodeStep
  generalize getBit s = g at h ⊢
  obtain ⟨_ | b, t⟩ := g
  · exact .raised h
  · exact .ok (h.trans (worksIn_decodeEdge b t))

end Sys2Proof.Proofs
end

section
/-! How a turn of the controller ends (R190, R205, R227, R236), and what follows for the tables and the streams
(R73, R70). -/

namespace Sys2Proof.Proofs

open Sys2Proof.Machine Sys2Proof.Laws

/-- How a turn in phase `p` ends: in the phase, in the next one, in DONE right after the sink is closed, or by
error entry. -/
inductive TurnIn (p : Phase) (s : State) : State → Prop
  | stays {t : State} (h : WorksIn p s t) : TurnIn p s t
  | goes {u : State} (h : WorksIn p s u) (q : Phase) (hq : q ≠ .done ∧ q ≠ .error) : TurnIn p s (goto q u)
  | closes {u : State} (h : WorksIn p s u) : TurnIn p s (goto .done (snkClose u))
  | raises {u : State} (h : WorksIn p s u) (e : ErrKind) : TurnIn p s (raise e u)

theorem turnIn_closeOut (p : Phase) (s : State) : TurnIn p s (goto .done (closeOut s)) := by
  obtain ⟨u, h, hu⟩ := closeOut_eq_snkClose p s
  exact hu ▸ .closes h

/-! ### Reaching the end of a turn -/

/-- The turn of a phase performed whole, which goes on to phase `q` unless it takes an error. -/
theorem toOutcome_turnIn {α : Type} {p : Phase} {s t : State} {r : Res α} (q : Phase) (h : RunsIn p s r)
    (hq : q ≠ .done ∧ q ≠ .error) (ht : r.toOutcome (fun _ u => goto q u) = .next t) : TurnIn p s t := by
  cases h with
  | ok h => exact Host.Outcome.next.inj ht ▸ .goes h q hq
  | raised h => exact Host.Outcome.next.inj ht ▸ .raises h _
  | stop => cases ht

/-- The transfer after an operation stays in the phase or goes on to one that is neither DONE nor ERROR. -/
theorem follow_turnIn {s u : State} (h : WorksIn s.phase s u) : TurnIn s.phase s (follow s u) := by
  have hmicro (m : Micro) : TurnIn s.phase s { u with micro := m } := .stays (h.trans worksIn_sequencing)
  unfold follow
  split
  next =>
    split
    · exact hmicro .loop
    · split
      · exact .goes h _ (by decide)
      · exact .stays h
  next =>
    split
    · exact hmicro .start
    all_goals
      split
      · exact .goes h _ (by decide)
      · exact hmicro _
      all_goals exact .stays h
  next hp =>
    split
    · exact hmicro .loop
    · split
      next n _ =>
        have hroot : WorksIn s.phase u { u with root := n } := by rw [hp]; exact .silent rfl rfl rfl
        exact .goes (h.trans hroot) _ (by decide)
      all_goals exact .stays h
  next =>
    split
    · exact .goes h _ (by decide)
    · exact .stays h
  all_goals exact .stays h

/-- The turn of a phase that goes round a loop: an operation, then the transfer. -/
theorem after_turnIn {α : Type} {s t : State} {r : Res α} {g : α → State → State} (h : RunsIn s.phase s r)
    (hg : ∀ a u, WorksIn s.phase u (g a u)) (ht : after (r.toOutcome g) (follow s) = .next t) :
    TurnIn s.phase s t := by
  obtain ⟨u, hu, rfl⟩ := after_eq_next.mp ht
  cases h with
  | @ok a v h =>
    obtain rfl := Host.Outcome.next.inj hu
    have hw := h.trans (hg a v)
    split
    · exact .stays hw
    · exact follow_turnIn hw
  | raised h =>
    obtain rfl := Host.Outcome.next.inj hu
    rw [if_pos (raise_phase _ _)]
    exact .raises h _
  | stop => cases hu

/-- The same for an operation that always ends normally. -/
theorem after_next_turnIn {s t u : State} (h : WorksIn s.phase s u) (ht : after (.next u) (follow s) = .next t) :
    TurnIn s.phase s t :=
  after_turnIn (r := .ok () u) (g := fun _ v => v) (.ok h) (fun _ v => .refl _ v) ht

/-! ### Every phase -/

theorem whole_turnIn {s t : State} {i : Instr} (h : wholePhase s.phase = some i) (ht : exec i s = .next t) :
    TurnIn s.phase s t := by
  generalize s.phase = p at h ⊢
  cases p <;> cases h
  case cBuild => exact toOutcome_turnIn .cCodes (runsIn_buildTree s) (by decide) ht
  case cCodes => exact toOutcome_turnIn .cMagic (runsIn_deriveCodes s) (by decide) ht
  case cMagic => exact Host.Outcome.next.inj ht ▸ .goes (worksIn_writeBits _ _ _ s) _ (by decide)
  case cHeader => exact toOutcome_turnIn .cRewind (runsIn_serialize _ _ _ s) (by decide) ht
  case cRewind =>
    have hw : WorksIn .cRewind s (rewindIn s) := ⟨⟨List.prefix_append _ _, fun _ => List.prefix_rfl⟩, rfl⟩
    exact Host.Outcome.next.inj ht ▸ .goes hw _ (by decide)
  case cEof => exact toOutcome_turnIn .cFlush (runsIn_encodeSym _ _ s) (by decide) ht
  case cFlush => exact Host.Outcome.next.inj ht ▸ turnIn_closeOut _ s
  case dRootchk =>
    change execDRootchk s = _ at ht
    unfold execDRootchk at ht
    split at ht <;> exact Host.Outcome.next.inj ht ▸ .goes (.refl _ s) _ (by decide)
  case dClose => exact Host.Outcome.next.inj ht ▸ turnIn_closeOut _ s

theorem countTurn_turnIn {s t : State} (hp : s.phase = .cCount) (h : controllerTurn s = .next t) :
    TurnIn s.phase s t := by
  by_cases hstart : s.micro = .start
  · rw [controllerTurn_op (i := .fcClear) (t := s) (by simp [fetch, hp, hstart])] at h
    exact after_next_turnIn (hp ▸ worksIn_clearCounts s) h
  · rw [controllerTurn_op (i := .fcCount) (t := s) (by simp [fetch, hp, hstart])] at h
    exact after_turnIn (hp ▸ runsIn_countOne s) (fun _ _ => worksIn_sequencing) h

theorem bodyEncodeTurn_turnIn {s t : State} (hp : s.phase = .cBody) (h : controllerTurn s = .next t) :
    TurnIn s.phase s t := by
  have hread (hf : fetch s = .op (.readbits 8) s) : TurnIn s.phase s t := by
    obtain ⟨r, hr, -⟩ := exec_readbits_eight s
    rw [controllerTurn_op hf, hr] at h
    exact after_next_turnIn ((worksIn_readBits _ 8 s).trans worksIn_sequencing) h
  cases hmicro : s.micro with
  | start | loop => exact hread (by simp [fetch, hp, hmicro])
  | encode v =>
    rw [controllerTurn_op (i := .encSym (symOfByte v)) (t := s) (by simp [fetch, hp, hmicro])] at h
    exact after_turnIn (runsIn_encodeSym _ _ s) (fun _ u => .refl _ u) h

theorem magicTurn_turnIn {s t : State} (hp : s.phase = .dMagic) (h : controllerTurn s = .next t) :
    TurnIn s.phase s t := by
  have hw := worksIn_readBits s.phase 32 s
  have hfetch : fetch s = fetchMagic s := by simp [fetch, hp]
  have hfollow : follow s = fun u => u := by funext u; simp [follow, hp]
  rw [controllerTurn, hfetch, fetchMagic, hfollow] at h
  generalize readBits 32 s = g at h hw
  obtain ⟨_ | m, u⟩ := g
  · exact Host.Outcome.next.inj h ▸ .raises hw _
  · obtain rfl := Host.Outcome.next.inj ((after_id _).symm.trans h)
    unfold checkMagic
    split
    · exact .goes hw _ (by decide)
    · exact .raises hw _

theorem headerTurn_turnIn {s t : State} (hp : s.phase = .dHeader) (h : controllerTurn s = .next t) :
    TurnIn s.phase s t := by
  by_cases hstart : s.micro = .start
  · rw [controllerTurn_op (i := .hdrInit) (t := s) (by simp [fetch, hp, hstart])] at h
    exact after_next_turnIn (hp ▸ worksIn_initHeader s) h
  · have hw := worksIn_fetchNode s.phase s
    have hfetch : fetch s = fetchHeader s := by simp [fetch, hp, hstart]
    rw [controllerTurn, hfetch, fetchHeader] at h
    generalize fetchNode s = g at h hw
    obtain ⟨_ | k, u⟩ := g
    · exact Host.Outcome.next.inj h ▸ .raises hw _
    · cases k with
      | internal =>
        have hr : RunsIn s.phase u ((makeInternal u).bind pushNode) :=
          hp ▸ (runsIn_makeInternal u).bind (runsIn_pushNode _)
        exact after_turnIn (hr.of_worksIn hw) (fun _ v => .refl _ v) h
      | leaf v =>
        have hr : RunsIn s.phase u (makeLeaf v u) := hp ▸ runsIn_makeLeaf v u
        exact after_turnIn (hr.of_worksIn hw) (fun n w => hp ▸ worksIn_returnNode n w.stack w) h

theorem bodyDecodeTurn_turnIn {s t : State} (hp : s.phase = .dBody) (h : controllerTurn s = .next t) :
    TurnIn s.phase s t := by
  have hstep {u : State} (hw : WorksIn .dBody s u) (h : after (exec .decStep u) (follow s) = .next t) :
      TurnIn s.phase s t := by
    have hr : RunsIn s.phase s (decodeStep u) := hp ▸ (runsIn_decodeStep u).of_worksIn hw
    exact after_turnIn hr (fun _ _ => worksIn_sequencing) h
  by_cases hstart : s.micro = .start
  · rw [controllerTurn_op (i := .decStep) (t := { s with cur := s.root, micro := .loop })
      (by simp [fetch, hp, hstart])] at h
    exact hstep ((worksIn_setCur s.root s).trans worksIn_sequencing) h
  · rw [controllerTurn_op (i := .decStep) (t := s) (by simp [fetch, hp, hstart])] at h
    exact hstep (.refl _ s) h

/-- Every turn of the controller ends in one of the four ways. -/
theorem controllerTurn_turnIn {s t : State} (h : controllerTurn s = .next t) : TurnIn s.phase s t := by
  have hrest (hf : fetch s = .rest) : TurnIn s.phase s t := by
    rw [controllerTurn, hf] at h
    exact Host.Outcome.next.inj h ▸ .stays (.refl _ s)
  have hwhole {i : Instr} (hi : wholePhase s.phase = some i) : TurnIn s.phase s t :=
    whole_turnIn hi (controllerTurn_whole hi ▸ h)
  cases hp : s.phase with
  | idle | done | error => exact hp ▸ hrest (by simp [fetch, hp])
  | cBuild | cCodes | cMagic | cHeader | cRewind | cEof | cFlush | dRootchk | dClose =>
    exact hp ▸ hwhole (by rw [hp]; rfl)
  | cCount => exact hp ▸ countTurn_turnIn hp h
  | cBody => exact hp ▸ bodyEncodeTurn_turnIn hp h
  | dMagic => exact hp ▸ magicTurn_turnIn hp h
  | dHeader => exact hp ▸ headerTurn_turnIn hp h
  | dBody => exact hp ▸ bodyDecodeTurn_turnIn hp h

/-! ### What a turn keeps -/

/-- Error entry writes no table (R236). -/
theorem tables_raise (p : Phase) (e : ErrKind) (s : State) : tables p (raise e s) = tables p s := by
  by_cases h : s.phase = .idle
  · rw [raise_idle e s h]; rfl
  · rw [raise_working e s h]; rfl

theorem TurnIn.tables {p : Phase} {s t : State} (h : TurnIn p s t) : tables p t = tables p s := by
  cases h with
  | stays h => exact h.tables
  | goes h q hq => exact h.tables
  | closes h => exact h.tables
  | raises h e => exact (tables_raise p e _).trans h.tables

/-- Settles O20: a turn is work of the phase, which writes no other phase's tables, and its end writes none. -/
theorem tablesWrittenInTheirPhases : Obligations.TablesWrittenInTheirPhases := fun _ _ hhost h =>
  tables_eq_iff.mp (controllerTurn_turnIn (step_quiet hhost ▸ h)).tables

/-! ### The streams -/

/-- Error entry makes at most one transaction, the abort, and puts nothing (R123, R236). -/
theorem raise_trace_prefix (e : ErrKind) (s : State) : s.trace <+: (raise e s).trace := by
  by_cases h : s.phase = .idle
  · rw [raise_idle e s h]
  · rw [raise_working e s h]
    exact List.prefix_append _ _

theorem raise_out (e : ErrKind) (s : State) : (raise e s).out = s.out := by
  by_cases h : s.phase = .idle
  · rw [raise_idle e s h]
  · rw [raise_working e s h]

theorem TurnIn.streamsGrow {p : Phase} {s t : State} (h : TurnIn p s t) : StreamsGrow s t := by
  cases h with
  | stays h => exact h.toStreamsGrow
  | goes h q hq => exact ⟨h.trace, h.out⟩
  | closes h => exact ⟨h.trace.trans (List.prefix_append _ _), h.out⟩
  | raises h e => exact ⟨h.trace.trans (raise_trace_prefix e _), (raise_out e _).symm ▸ h.out⟩

theorem ne_of_isBusy {p q : Phase} (hp : isBusy p = true) (hq : isBusy q = false) : p ≠ q := by
  rintro rfl
  exact absurd hp (hq ▸ Bool.false_ne_true)

/-- A working phase reaches DONE only by closing the sink (R70 c). -/
theorem TurnIn.closed_of_done {p : Phase} {s t : State} (h : TurnIn p s t) (hs : s.phase ≠ .done)
    (ht : t.phase = .done) : t.snk = .closed ∧ t.trace.getLast? = some .snkClose := by
  cases h with
  | stays h => exact absurd (h.phase.symm.trans ht) hs
  | goes h q hq => exact absurd ht hq.1
  | closes h => exact ⟨rfl, List.getLast?_concat⟩
  | raises h e => exact absurd ((raise_phase e _).symm.trans ht) (by decide)

/-- A working phase reaches ERROR only by aborting the sink (R70 c, R236). -/
theorem TurnIn.aborted_of_error {p : Phase} {s t : State} (h : TurnIn p s t) (hs : s.phase ≠ .error)
    (hidle : s.phase ≠ .idle) (ht : t.phase = .error) :
    t.snk = .aborted ∧ t.trace.getLast? = some .snkAbort := by
  cases h with
  | stays h => exact absurd (h.phase.symm.trans ht) hs
  | goes h q hq => exact absurd ht hq.2
  | closes h => cases ht
  | raises h e =>
    rw [raise_working e _ (h.phase.trans_ne hidle)]
    exact ⟨rfl, List.getLast?_concat⟩

/-- A command makes no transaction: a reserved byte raises in IDLE only, where nothing is aborted (R224, R238). -/
theorem command_streams {s t : State} (c : Byte) (h : exec (decodeCmd c) s = .next t) :
    t.trace = s.trace ∧ t.out = s.out := by
  rcases decodeCmd_cases c with hc | hc | hc | hc | hc <;> rw [hc] at h
  · exact Host.Outcome.next.inj h ▸ ⟨rfl, rfl⟩
  · change (if s.phase = .idle then _ else _) = _ at h
    split at h <;> exact Host.Outcome.next.inj h ▸ ⟨rfl, rfl⟩
  · change (if s.phase = .idle then _ else _) = _ at h
    split at h <;> exact Host.Outcome.next.inj h ▸ ⟨rfl, rfl⟩
  · change (if isBusy s.phase then _ else _) = _ at h
    split at h <;> exact Host.Outcome.next.inj h ▸ ⟨rfl, rfl⟩
  · change (if s.phase = .idle then _ else _) = _ at h
    split at h
    next hp =>
      obtain rfl := Host.Outcome.next.inj h
      rw [raise_idle _ s hp]
      exact ⟨rfl, rfl⟩
    next => exact Host.Outcome.next.inj h ▸ ⟨rfl, rfl⟩

/-- Only the host's fresh sink takes bytes away (R61, R262). -/
theorem hostTurn_streamsGrow {s t : State} {e : HostEvent} (he : e ≠ .sink) (h : hostTurn e s = .next t) :
    StreamsGrow s t := by
  cases e with
  | write c =>
    obtain ⟨htrace, hout⟩ := command_streams c h
    exact .of_eq htrace hout
  | readStatus | reset | source bytes pos | stall => exact Host.Outcome.next.inj h ▸ .of_eq rfl rfl
  | sink => exact absurd rfl he
  | wait => exact (controllerTurn_turnIn h).streamsGrow

/-- Settles O21: the controller's turn by the way it ends, the host's by the action. -/
theorem outputKeepsItsOrder : Obligations.OutputKeepsItsOrder := by
  intro s t h
  cases hhost : s.host with
  | nil =>
    have hturn := controllerTurn_turnIn (step_quiet hhost ▸ h)
    refine ⟨hturn.streamsGrow.trace, fun ho _ => hturn.streamsGrow.out ho, fun hbusy _ => ?_, fun hbusy _ => ?_⟩
    · exact hturn.closed_of_done (ne_of_isBusy hbusy rfl)
    · exact hturn.aborted_of_error (ne_of_isBusy hbusy rfl) (ne_of_isBusy hbusy rfl)
  | cons e rest =>
    have hturn : hostTurn e { s with host := rest } = .next t := step_host hhost ▸ h
    suffices s.trace <+: t.trace ∧ (s.snk = .opened → (∀ r, e :: rest ≠ .sink :: r) → s.out <+: t.out) by simpa
    by_cases he : e = .sink
    · subst he
      exact ⟨Host.Outcome.next.inj hturn ▸ List.prefix_rfl, fun _ hsink => absurd rfl (hsink rest)⟩
    · have hgrow := hostTurn_streamsGrow he hturn
      exact ⟨hgrow.trace, fun ho _ => hgrow.out ho⟩

end Sys2Proof.Proofs
end

section
/-! The decoder and the encoder undo each other (R91 to R100): per format, the bits of an operand determine it and
are determined by it. -/

namespace Sys2Proof.Proofs

open Sys2Proof.Machine Sys2Proof.Laws

/-! ### A word and its bits -/

/-- A word is the numeral of its bits (R8, R99). -/
theorem ofNat_numeral_bitsOf {w : Nat} (x : BitVec w) : BitVec.ofNat w (numeral (bitsOf w x.toNat)) = x := by
  rw [numeral_bitsOf, Nat.mod_eq_of_lt x.isLt, BitVec.ofNat_toNat, BitVec.setWidth_eq]

/-- A bit string is the bits of its numeral, taken as a word of its length (R8, R99). -/
theorem bitsOf_ofNat_numeral {w : Nat} {b : BitString} (h : b.length = w) :
    bitsOf w (BitVec.ofNat w (numeral b)).toNat = b := by
  subst h
  rw [BitVec.toNat_ofNat, Nat.mod_eq_of_lt (numeral_lt b), bitsOf_numeral]

/-! ### Command bytes (R100) -/

/-- A command byte is its reserved field, bits 7:2, followed by its choice field, bits 1:0. -/
theorem byte_eq_fields (c : Byte) : c = c.extractLsb' 2 6 ++ c.extractLsb' 0 2 := by
  rw [BitVec.extractLsb'_append_extractLsb'_eq_extractLsb' (Nat.zero_add 2).symm, BitVec.extractLsb'_eq_self]

theorem isReservedCmd_iff (c : Byte) : isReservedCmd c = true ↔ c.extractLsb' 2 6 ≠ 0#6 := by
  revert c
  decide

theorem decodeCmd_reserved {c : Byte} (h : isReservedCmd c = true) : decodeCmd c = .cmdReserved c := if_pos h

/-- With the reserved field zero, the choice field is the whole byte. -/
theorem decodeCmd_of_fields {c : Byte} {x : BitVec 2} (hzero : c.extractLsb' 2 6 = 0#6)
    (hchoice : c.extractLsb' 0 2 = x) : decodeCmd c = decodeCmd (0#6 ++ x) := by
  rw [← hzero, ← hchoice, ← byte_eq_fields]

/-- A byte that is not reserved is one of the four commands' bytes. -/
theorem unreserved_cases {c : Byte} (h : ¬isReservedCmd c = true) :
    c = 0x00#8 ∨ c = 0x01#8 ∨ c = 0x02#8 ∨ c = 0x03#8 := by
  have hzero : c.extractLsb' 2 6 = 0#6 := not_not.mp (mt (isReservedCmd_iff c).mpr h)
  have hchoice : ∀ x : BitVec 2, x = 0#2 ∨ x = 1#2 ∨ x = 2#2 ∨ x = 3#2 := by decide
  rw [byte_eq_fields c, hzero]
  exact (hchoice (c.extractLsb' 0 2)).imp (congrArg _) (.imp (congrArg _) (.imp (congrArg _) (congrArg _)))

theorem decode_cmdReserved_bitsOf {c : Byte} (h : isReservedCmd c = true) :
    decode .cmd (bitsOf 8 c.toNat) = .ok (.cmdReserved c) := by
  rw [decode_cmd_bitsOf, decodeCmd_reserved h]

/-- The command a byte decodes to is well formed, met at the port, and has that byte's bits. -/
theorem encode_decodeCmd (c : Byte) :
    (decodeCmd c).wf = true ∧ (decodeCmd c).format = some .cmd ∧ encode (decodeCmd c) = some (bitsOf 8 c.toNat) := by
  by_cases h : isReservedCmd c = true
  · rw [decodeCmd_reserved h]
    exact ⟨h, rfl, rfl⟩
  · rcases unreserved_cases h with rfl | rfl | rfl | rfl <;> exact ⟨rfl, rfl, rfl⟩

/-! ### Tokens of the stream (R91, R92, R93, R97) -/

theorem decode_magic_bitsOf (m : BitVec 32) : decode .magic (bitsOf 32 m.toNat) = .ok (.magic m) := by
  rw [decode, if_pos (bitsOf_length _ _), ofNat_numeral_bitsOf]

theorem decode_nodeLeaf_bitsOf (v : BitVec 9) :
    decode .node (true :: bitsOf 9 v.toNat) = .ok (.nodeLeaf v) := by
  have hlen : (bitsOf 9 v.toNat).length = tokenTail true := bitsOf_length _ _
  rw [decode, if_pos hlen, nodeToken, if_pos rfl, ofNat_numeral_bitsOf, NodeToken.toInstr]

theorem decode_pad_replicate {p : Nat} (h : p ≤ 7) :
    decode .pad (List.replicate p false) = .ok (.pad p) := by
  simp [decode, h]

/-- Only zeros pass for padding. -/
theorem eq_replicate_of_all_not {b : BitString} (h : b.all (! ·) = true) : b = List.replicate b.length false :=
  List.eq_replicate_of_mem fun x hx => by simpa using List.all_eq_true.mp h x hx

/-- A tag bit and as many bits as it calls for are the bits of the token they make. -/
theorem encode_nodeToken {tag : Bool} {tail : BitString} (h : tail.length = tokenTail tag) :
    encode (nodeToken tag tail).toInstr = some (tag :: tail) := by
  cases tag with
  | false =>
    obtain rfl : tail = [] := List.length_eq_zero_iff.mp h
    rfl
  | true => exact congrArg (fun l => some (true :: l)) (bitsOf_ofNat_numeral h)

theorem wf_nodeToken (tag : Bool) (tail : BitString) :
    (nodeToken tag tail).toInstr.wf = true ∧ (nodeToken tag tail).toInstr.format = some .node := by
  cases tag <;> exact ⟨rfl, rfl⟩

/-! ### Both directions -/

/-- Settles O1: format by format, the field that is cut out of the bits is the operand. An operation without a
format meets no bits (R107). -/
theorem decodeOfEncode : Obligations.DecodeOfEncode
  | .nop, _, _, _, rfl, rfl => decode_cmd_bitsOf 0x00#8
  | .compress, _, _, _, rfl, rfl => decode_cmd_bitsOf 0x01#8
  | .decompress, _, _, _, rfl, rfl => decode_cmd_bitsOf 0x02#8
  | .clear, _, _, _, rfl, rfl => decode_cmd_bitsOf 0x03#8
  | .cmdReserved _, _, _, hwf, rfl, rfl => decode_cmdReserved_bitsOf hwf
  | .magic m, _, _, _, rfl, rfl => decode_magic_bitsOf m
  | .nodeInternal, _, _, _, rfl, rfl => rfl
  | .nodeLeaf v, _, _, _, rfl, rfl => decode_nodeLeaf_bitsOf v
  | .codeword _, _, _, hwf, rfl, rfl => if_pos (of_decide_eq_true hwf)
  | .pad _, _, _, hwf, rfl, rfl => decode_pad_replicate (of_decide_eq_true hwf)

/-- Settles O2: format by format, the accepted bits have the field's length, so they are the bits of what the
field stands for. -/
theorem encodeOfDecode : Obligations.EncodeOfDecode := by
  intro f b i h
  cases f with
  | cmd =>
    rw [decode] at h
    split at h <;> cases h
    next hlen =>
      obtain ⟨hwf, hformat, hencode⟩ := encode_decodeCmd (BitVec.ofNat 8 (numeral b))
      exact ⟨hwf, hformat, hencode.trans (congrArg some (bitsOf_ofNat_numeral hlen))⟩
  | magic =>
    rw [decode] at h
    split at h <;> cases h
    next hlen => exact ⟨rfl, rfl, congrArg some (bitsOf_ofNat_numeral hlen)⟩
  | node =>
    cases b with
    | nil => cases h
    | cons tag tail =>
      rw [decode] at h
      split at h <;> cases h
      next hlen =>
        obtain ⟨hwf, hformat⟩ := wf_nodeToken tag tail
        exact ⟨hwf, hformat, encode_nodeToken hlen⟩
  | codeword =>
    rw [decode] at h
    split at h <;> cases h
    next hlen => exact ⟨decide_eq_true hlen, rfl, rfl⟩
  | pad =>
    rw [decode] at h
    split at h <;> cases h
    next hpad =>
      obtain ⟨hlen, hzeros⟩ := hpad
      exact ⟨decide_eq_true hlen, rfl, congrArg some (eq_replicate_of_all_not hzeros).symm⟩

/-- Settles O3: the two fields of a byte choose the command; the three tokens are run. -/
theorem specWordsDecode : Obligations.SpecWordsDecode := by
  refine ⟨fun c => ⟨fun h => decodeCmd_reserved ((isReservedCmd_iff c).mpr h), fun hzero => ?_⟩, rfl, rfl, rfl⟩
  exact ⟨decodeCmd_of_fields hzero, decodeCmd_of_fields hzero, decodeCmd_of_fields hzero,
    decodeCmd_of_fields hzero⟩

end Sys2Proof.Proofs
end

section
/-! The tokens of the stream as the machine meets them: a step runs what the bits decode to (R91 to R98, R206), and
a codeword is the walk from the root to its leaf (R95, R98, R209). -/

namespace Sys2Proof.Proofs

open Sys2Proof.Machine Sys2Proof.Laws

/-! ### What the token fetches come to, by the bits read -/

theorem fetchMagic_of_bits {s t : State} {l : BitString} {i : Instr} (h : getBits 32 s = (some l, t))
    (hd : decode .magic l = .ok i) : fetchMagic s = .op i t := by
  rw [decode, if_pos (getBits_length _ _ _ _ h)] at hd
  obtain rfl := Except.ok.inj hd
  simp only [fetchMagic, readBits, h]

theorem fetchMagic_of_eof {s t : State} (h : getBits 32 s = (none, t)) :
    fetchMagic s = .raised (raise .formatMismatch t) := by
  simp only [fetchMagic, readBits, h]

theorem fetchHeader_of_bits {s t u : State} {b : Bool} {l : BitString} {i : Instr} (htag : getBit s = (some b, t))
    (htail : getBits (tokenTail b) t = (some l, u)) (hd : decode .node (b :: l) = .ok i) :
    fetchHeader s = .op i u := by
  rw [decode, if_pos (getBits_length _ _ _ _ htail)] at hd
  obtain rfl := Except.ok.inj hd
  simp only [fetchHeader, fetchNode, htag, htail]

theorem fetchHeader_of_eof_tag {s t : State} (h : getBit s = (none, t)) :
    fetchHeader s = .raised (raise .truncatedHeader t) := by
  simp only [fetchHeader, fetchNode, h]

theorem fetchHeader_of_eof_tail {s t u : State} {b : Bool} (htag : getBit s = (some b, t))
    (htail : getBits (tokenTail b) t = (none, u)) : fetchHeader s = .raised (raise .truncatedHeader u) := by
  simp only [fetchHeader, fetchNode, htag, htail]

theorem controllerTurn_raised {s t : State} (h : fetch s = .raised t) : controllerTurn s = .next t := by
  simp [controllerTurn, h]

/-! ### The body's walk -/

theorem decodePath_cons_of_go {b : Bool} {s t : State} (h : decodeEdge b s = (false, t)) (l : BitString) :
    decodePath (b :: l) s = decodePath l t := by
  rw [decodePath, h]

theorem decodePath_singleton (b : Bool) (s : State) : decodePath [b] s = decodeEdge b s := by
  rw [decodePath]
  rcases decodeEdge b s with ⟨_ | _, t⟩ <;> rfl

/-- DEC.STEP is the codeword of the one bit it reads (R98, R209). -/
theorem exec_decStep_of_bit {s t : State} {b : Bool} (h : getBit s = (some b, t)) :
    exec .decStep s = exec (.codeword [b]) t := by
  change execDecStep s = execCodeword [b] t
  rw [execDecStep, decodeStep, h, execCodeword, decodePath_singleton]
  rfl

/-- Settles O6: each clause is the fetch of its phase at the bits read; in the body the operation fetched is
DEC.STEP, which is the codeword of its bit. -/
theorem stepRunsDecodedToken : Obligations.StepRunsDecodedToken := by
  intro s t u i l b hhost
  rw [step_quiet hhost]
  have hmagic (hp : s.phase = .dMagic) : fetch s = fetchMagic s := by simp only [fetch, hp]
  have hheader (hp : s.phase = .dHeader) (hloop : s.micro ≠ .start) : fetch s = fetchHeader s := by
    simp only [fetch, hp, if_neg hloop]
  refine ⟨fun hp hl hd => ?_, fun hp hl => ?_, fun hp hloop hb hl hd => ?_, fun hp hloop hb => ?_,
    fun hp hloop hb hl => ?_, fun hp hloop hb hd => ?_⟩
  · exact controllerTurn_op ((hmagic hp).trans (fetchMagic_of_bits hl hd))
  · exact controllerTurn_raised ((hmagic hp).trans (fetchMagic_of_eof hl))
  · exact controllerTurn_op ((hheader hp hloop).trans (fetchHeader_of_bits hb hl hd))
  · exact controllerTurn_raised ((hheader hp hloop).trans (fetchHeader_of_eof_tag hb))
  · exact controllerTurn_raised ((hheader hp hloop).trans (fetchHeader_of_eof_tail hb hl))
  · have hfetch : fetch s = .op .decStep s := by simp only [fetch, hp, if_neg hloop]
    obtain rfl : Instr.codeword [b] = i := Except.ok.inj hd
    rw [controllerTurn_op hfetch, exec_decStep_of_bit hb]

/-! ### The tree in the node memory (R28) -/

/-- The child a bit leads to (R12, R209). -/
def childAt (s : State) (b : Bool) (i : NodeIx) : NodeIx := if b then (nodeAt s i).right else (nodeAt s i).left

theorem treeAt_eq_leaf {s : State} {d : Nat} {i : NodeIx} {v : Sym} {w : Nat}
    (h : treeAt s d i = some (.leaf v w)) : (nodeAt s i).kind = .leaf ∧ (nodeAt s i).value = v := by
  unfold treeAt at h
  split at h
  · split at h
    next hkind =>
      cases h
      exact ⟨hkind, rfl⟩
    next =>
      split at h
      · cases h
      · split at h <;> cases h
  · cases h

theorem treeAt_eq_internal {s : State} {d : Nat} {i : NodeIx} {w : Nat} {l r : SymbolTree}
    (h : treeAt s d i = some (.internal w l r)) :
    (nodeAt s i).kind = .internal ∧ ∃ d', ∀ b, treeAt s d' (childAt s b i) = some (if b then r else l) := by
  unfold treeAt at h
  split at h
  · split at h
    next => cases h
    next hkind =>
      split at h
      · cases h
      next d' =>
        split at h
        next hl hr =>
          cases h
          exact ⟨hkind, d', Bool.forall_bool.mpr ⟨hl, hr⟩⟩
        next => cases h
  · cases h

/-- The tree of an index depends on the node memory only. -/
theorem treeAt_congr {s t : State} (hnode : t.node = s.node) (hcnt : t.nodeCnt = s.nodeCnt) (d : Nat) (i : NodeIx) :
    treeAt t d i = treeAt s d i := by
  have hat (j : NodeIx) : nodeAt t j = nodeAt s j := by rw [nodeAt, nodeAt, hnode]
  induction d generalizing i with
  | zero => simp only [treeAt, hat, hcnt]
  | succ d ih => simp only [treeAt, hat, hcnt, ih]

theorem treeAt_setCur (c : NodeIx) (s : State) (d : Nat) (i : NodeIx) :
    treeAt { s with cur := c } d i = treeAt s d i :=
  treeAt_congr (s := s) (t := { s with cur := c }) rfl rfl d i

/-- A code below an Internal node is an edge and a code of the child it leads to (R12, R166). -/
theorem code_internal {w : Nat} {l r : SymbolTree} {y : Sym} {p : BitString}
    (h : (SymbolTree.internal w l r).code y = some p) :
    ∃ (b : Bool) (q : BitString), p = b :: q ∧ (if b then r else l).code y = some q := by
  rw [SymbolTree.code] at h
  split at h
  next q hl => exact ⟨false, q, (Option.some.inj h).symm, hl⟩
  next =>
    obtain ⟨q, hr, rfl⟩ := Option.map_eq_some_iff.mp h
    exact ⟨true, q, rfl, hr⟩

/-! ### A codeword reaches its leaf (R95, R98, R209) -/

/-- What the walk does at the leaf of `y` at index `c`: it stops there for 256, else it emits the byte and goes
back to the root. -/
def reachLeaf (y : Sym) (c : NodeIx) (s : State) : Bool × State :=
  if y = pseudoEof then (true, { s with cur := c })
  else (false, { writeBits 8 (byteOfSym y).toNat { s with cur := c } with cur := s.root })

theorem decodeEdge_internal {s : State} {b : Bool} (h : (nodeAt s (childAt s b s.cur)).kind = .internal) :
    decodeEdge b s = (false, { s with cur := childAt s b s.cur }) := by
  unfold decodeEdge
  dsimp only
  split
  next => rfl
  next hleaf => exact absurd (h.symm.trans hleaf) (by decide)

theorem decodeEdge_leaf {s : State} {b : Bool} (h : (nodeAt s (childAt s b s.cur)).kind = .leaf) :
    decodeEdge b s = reachLeaf (nodeAt s (childAt s b s.cur)).value (childAt s b s.cur) s := by
  unfold decodeEdge
  dsimp only
  split
  next hinternal => exact absurd (h.symm.trans hinternal) (by decide)
  next => rfl

/-- A codeword leads the walk from an Internal node to a leaf of its symbol, with no leaf on the way. -/
theorem decodePath_code {s : State} {d : Nat} {w : Nat} {l r : SymbolTree} {y : Sym} {p : BitString}
    (ht : treeAt s d s.cur = some (.internal w l r)) (hp : (SymbolTree.internal w l r).code y = some p) :
    ∃ c, (nodeAt s c).value = y ∧ decodePath p s = reachLeaf y c s := by
  induction p generalizing s d w l r with
  | nil =>
    obtain ⟨b, q, hnil, -⟩ := code_internal hp
    cases hnil
  | cons b q ih =>
    obtain ⟨_, _, hcons, hq⟩ := code_internal hp
    obtain ⟨rfl, rfl⟩ := List.cons.inj hcons
    obtain ⟨-, d', hchild⟩ := treeAt_eq_internal ht
    have hchild := hchild b
    generalize (if b then r else l) = T at hq hchild
    cases T with
    | leaf v x =>
      obtain ⟨hkind, rfl⟩ := treeAt_eq_leaf hchild
      rw [SymbolTree.code] at hq
      split at hq <;> cases hq
      next hv => exact ⟨_, hv, by rw [decodePath_singleton, decodeEdge_leaf hkind, hv]⟩
    | internal x l' r' =>
      obtain ⟨hkind, -⟩ := treeAt_eq_internal hchild
      rw [decodePath_cons_of_go (decodeEdge_internal hkind)]
      exact ih ((treeAt_setCur _ s d' _).trans hchild) hq

/-! ### Emitting a byte -/

/-- The accumulator after the bits of `l`, the first of them written in bit `7 - k` (R120). -/
def fillBits : Nat → BitString → Byte → Byte
  | _, [], acc => acc
  | k, b :: l, acc => fillBits (k + 1) l (setBit acc (7 - k) b)

/-- Eight bits overwrite the accumulator. -/
theorem fillBits_bitsOf (b acc : Byte) : fillBits 0 (bitsOf 8 b.toNat) acc = b := by
  refine BitVec.eq_of_getLsbD_eq fun k hk => ?_
  simp only [bitsOf, fillBits, getLsbD_setBit _ _ hk, BitVec.testBit_toNat]
  interval_cases k <;> rfl

/-- The bits that complete a byte put it, and leave the packer empty (R120). -/
theorem putBits_completing_byte (l : BitString) (s : State) (h : s.wrCnt.val + l.length = 8) :
    putBits l s = { snkPut (fillBits s.wrCnt.val l s.wrAcc) s with wrAcc := 0, wrCnt := 0 } := by
  induction l generalizing s with
  | nil =>
    have := s.wrCnt.isLt
    exact absurd h (by simpa using this.ne)
  | cons b l ih =>
    rw [List.length_cons] at h
    rw [putBits_cons, putBit]
    split
    next hroom => exact ih _ (by simp only; omega)
    next hfull =>
      obtain rfl : l = [] := List.length_eq_zero_iff.mp (by omega)
      rfl

/-- Eight bits written to an empty packer are one put of the byte they spell (R120, R121, R209). -/
theorem writeBits_byte (b : Byte) {s : State} (hcnt : s.wrCnt = 0) (hacc : s.wrAcc = 0) :
    writeBits 8 b.toNat s = snkPut b s := by
  rw [writeBits, putBits_completing_byte _ _ (by rw [hcnt, bitsOf_length]; rfl), hcnt]
  change { snkPut (fillBits 0 _ _) s with wrAcc := 0, wrCnt := 0 } = _
  rw [fillBits_bitsOf, ← hacc, ← hcnt]
  rfl

/-- While the sink is open, a put appends the byte and its transaction (R61). -/
theorem snkPut_opened (b : Byte) {s : State} (h : s.snk = .opened) :
    snkPut b s = { s with out := s.out ++ [b], trace := s.trace ++ [.snkPut b] } := by
  simp [snkPut, h]

/-- At the leaf of a byte the walk, begun at the root with nothing pending, has emitted it and is back at the
root. -/
theorem reachLeaf_byte {y : Sym} (hy : y ≠ pseudoEof) (c : NodeIx) {s : State} (hcnt : s.wrCnt = 0)
    (hacc : s.wrAcc = 0) (hopen : s.snk = .opened) :
    reachLeaf y c s = (false, { s with
      cur := s.root, out := s.out ++ [byteOfSym y], trace := s.trace ++ [.snkPut (byteOfSym y)] }) := by
  rw [reachLeaf, if_neg hy, writeBits_byte (s := { s with cur := c }) _ hcnt hacc,
    snkPut_opened (s := { s with cur := c }) _ hopen]

/-- Settles O48: the walk from the root reaches the symbol's leaf; what it does there depends on the symbol. -/
theorem codewordEmitsItsSymbol : Obligations.CodewordEmitsItsSymbol := by
  intro s T y p n
  refine ⟨rfl, fun ht hleaves hp hcur hcnt hacc hopen => ?_⟩
  cases T with
  | leaf v w => exact absurd hleaves (Nat.not_succ_le_self 1)
  | internal w l r =>
    have htree : treeAt s maxDepth s.cur = some (.internal w l r) := hcur ▸ ht
    obtain ⟨c, hvalue, hpath⟩ := decodePath_code htree hp
    refine ⟨_, rfl, fun hy => ?_, fun hy => ?_⟩
    · rw [hpath, reachLeaf_byte hy c hcnt hacc hopen, ← hcur]
      rfl
    · subst hy
      rw [hpath]
      exact ⟨rfl, hvalue⟩

end Sys2Proof.Proofs
end

section
/-! The bit channel (R120 to R129): what the packer has written and what the unpacker can deliver, as bit strings
that PUTBIT extends at the end and GETBIT shortens at the front. -/

namespace Sys2Proof.Proofs

open Sys2Proof.Machine Sys2Proof.Laws

/-! ### Bits of a word by position -/

theorem bitsOf_eq_map (n v : Nat) : bitsOf n v = (List.range n).map fun i => v.testBit (n - 1 - i) := by
  induction n with
  | zero => rfl
  | succ n ih =>
    rw [bitsOf, ih, List.range_succ_eq_map, List.map_cons, List.map_map]
    refine congrArg₂ _ rfl (List.map_congr_left fun i _ => ?_)
    simp only [Function.comp_apply]
    congr 1
    omega

/-- The low bits are the last ones. -/
theorem drop_bitsOf {n m : Nat} (h : n ≤ m) (v : Nat) : (bitsOf m v).drop (m - n) = bitsOf n v := by
  induction m, h using Nat.le_induction with
  | base => simp
  | succ m h ih => rw [Nat.succ_sub h, bitsOf, List.drop_succ_cons, ih]

theorem bitsOf_mod (n v : Nat) : bitsOf n (v % 2 ^ n) = bitsOf n v := by
  have h := bitsOf_numeral (bitsOf n v)
  rwa [bitsOf_length, numeral_bitsOf] at h

/-- Low bits that are 0 are a run of zeros (R33, R122). -/
theorem bitsOf_eq_replicate {n : Nat} {x : Byte} (h : ∀ k, k < n → x.getLsbD k = false) :
    bitsOf n x.toNat = List.replicate n false := by
  rw [bitsOf_eq_map, List.eq_replicate_iff]
  simp only [List.length_map, List.length_range, List.mem_map, List.mem_range, BitVec.testBit_toNat, true_and]
  rintro _ ⟨i, hi, rfl⟩
  exact h _ (by omega)

@[simp] theorem unpackBytes_length (l : List Byte) : (unpackBytes l).length = 8 * l.length := by
  simp [unpackBytes, Nat.mul_comm]

/-! ### The packer -/

/-- PUTBIT while a bit place stays free after it (R120). -/
theorem putBit_of_room (b : Bool) {s : State} (h : s.wrCnt.val < 7) :
    putBit b s = { s with wrAcc := setBit s.wrAcc (7 - s.wrCnt.val) b, wrCnt := ⟨s.wrCnt.val + 1, by omega⟩ } :=
  dif_pos h

/-- The eighth bit puts the byte (R120). -/
theorem putBit_of_full (b : Bool) {s : State} (h : s.wrCnt.val = 7) :
    putBit b s = { snkPut (setBit s.wrAcc (7 - s.wrCnt.val) b) s with wrAcc := 0, wrCnt := 0 } :=
  dif_neg (by omega)

/-- Settles O23: the accumulator with its bit set is `setBit`'s; the count of pending bits decides whether it is
put. -/
theorem putbitAppendsOneBit : Obligations.PutbitAppendsOneBit := by
  intro s b
  refine ⟨putBit b s, setBit s.wrAcc (7 - s.wrCnt.val) b, rfl, fun k hk => getLsbD_setBit _ _ hk,
    fun h => ?_, fun h => ?_, fun h hopen => ?_, packerClean_putBit b⟩
  · rw [putBit_of_room b h]
    exact ⟨rfl, rfl⟩
  · rw [putBit_of_full b h]
    rfl
  · rw [putBit_of_full b h, snkPut_opened _ hopen]
    exact ⟨rfl, rfl⟩

theorem putsIn_putBit (b : Bool) (s : State) :
    putsIn (putBit b s).trace = putsIn s.trace + (s.wrCnt.val + 1) / 8 := by
  rcases Nat.lt_or_ge s.wrCnt.val 7 with h | h
  · rw [putBit_of_room b h, Nat.div_eq_of_lt (by omega)]
    rfl
  · have hfull : s.wrCnt.val = 7 := by omega
    simp [putBit_of_full b hfull, putsIn, hfull]

/-- A byte is put at each byte boundary passed (R121). -/
theorem putsIn_putBits (l : BitString) (s : State) :
    putsIn (putBits l s).trace = putsIn s.trace + (s.wrCnt.val + l.length) / 8 := by
  induction l generalizing s with
  | nil => simp [Nat.div_eq_of_lt s.wrCnt.isLt]
  | cons b l ih =>
    rw [putBits_cons, ih, putsIn_putBit, putBit_wrCnt, List.length_cons]
    omega

theorem execSeq_map_putbit_append (l : BitString) (is : List Instr) (s : State) :
    execSeq (l.map .putbit ++ is) s = execSeq is (putBits l s) := by
  induction l generalizing s with
  | nil => rfl
  | cons b l ih => exact ih (putBit b s)

theorem exec_writebits {n : Nat} (hpos : 1 ≤ n) (hle : n ≤ 32) (v : BitVec 32) (s : State) :
    exec (.writebits n v) s = .next (writeBits n v.toNat s) :=
  if_pos (by simp [widthOk, hpos, hle])

/-- Settles O24: WRITEBITS is PUTBIT of the word's bits by position. -/
theorem writebitsIsPutbits : Obligations.WritebitsIsPutbits := by
  intro s n v hpos hle
  refine ⟨writeBits n v.toNat s, exec_writebits hpos hle v s, ?_, ?_, putBits_frame _ s⟩
  · have hbits : ((List.range n).map fun k => Instr.putbit (v.getLsbD (n - 1 - k)))
        = (bitsOf n v.toNat).map .putbit := by
      simp only [bitsOf_eq_map, List.map_map, Function.comp_def, BitVec.testBit_toNat]
    have h := execSeq_map_putbit_append (bitsOf n v.toNat) [] s
    rwa [List.append_nil, ← hbits] at h
  · rw [writeBits, putsIn_putBits, bitsOf_length]

/-! ### The unpacker -/

theorem remaining_eq (s : State) :
    remaining s = bitsOf s.rdCnt.val s.rdByte.toNat ++ unpackBytes (s.src.drop s.pos) :=
  congrArg (· ++ _) (drop_bitsOf (Nat.le_of_lt_succ s.rdCnt.isLt) _)

/-- GETBIT with a bit left in the byte register (R124). -/
theorem getBit_of_held {s : State} (h : 0 < s.rdCnt.val) :
    getBit s = (some (s.rdByte.getLsbD (s.rdCnt.val - 1)), { s with rdCnt := ⟨s.rdCnt.val - 1, by omega⟩ }) :=
  dif_pos h

/-- GETBIT that fetches a byte (R124). -/
theorem getBit_of_fetch {s : State} {r : Byte} (hcnt : s.rdCnt = 0) (hr : s.src[s.pos]? = some r) :
    getBit s = (some (r.getLsbD 7), { s with
      rdByte := r, rdCnt := 7, pos := s.pos + 1, trace := s.trace ++ [.srcNext (some r)] }) := by
  simp [getBit, srcNext, hcnt, hr]

/-- GETBIT at the end of the source (R124). -/
theorem getBit_of_end {s : State} (hcnt : s.rdCnt = 0) (hr : s.src[s.pos]? = none) :
    getBit s = (none, { s with trace := s.trace ++ [.srcNext none] }) := by
  simp [getBit, srcNext, hcnt, hr]

theorem remaining_of_held {s : State} (h : 0 < s.rdCnt.val) :
    remaining s = s.rdByte.getLsbD (s.rdCnt.val - 1) ::
      remaining { s with rdCnt := ⟨s.rdCnt.val - 1, by omega⟩ } := by
  obtain ⟨k, hk⟩ := Nat.exists_eq_succ_of_ne_zero h.ne'
  simp only [remaining_eq, hk]
  rfl

theorem remaining_of_fetch {s : State} {r : Byte} (hcnt : s.rdCnt = 0) (hr : s.src[s.pos]? = some r) (l : List Txn) :
    remaining s = r.getLsbD 7 :: remaining { s with rdByte := r, rdCnt := 7, pos := s.pos + 1, trace := l } := by
  obtain ⟨hlt, rfl⟩ := List.getElem?_eq_some_iff.mp hr
  rw [remaining_eq, remaining_eq, hcnt, List.drop_eq_getElem_cons hlt]
  rfl

theorem remaining_of_end {s : State} (hcnt : s.rdCnt = 0) (hr : s.src[s.pos]? = none) : remaining s = [] := by
  rw [remaining_eq, hcnt, List.drop_eq_nil_of_le (List.getElem?_eq_none_iff.mp hr)]
  rfl

/-- The three ways a GETBIT can go (R124). -/
theorem unpacker_cases (s : State) :
    0 < s.rdCnt.val ∨ (s.rdCnt = 0 ∧ ∃ r, s.src[s.pos]? = some r) ∨ (s.rdCnt = 0 ∧ s.src[s.pos]? = none) := by
  rcases Nat.eq_zero_or_pos s.rdCnt.val with h | h
  · have hcnt : s.rdCnt = 0 := Fin.ext h
    rcases hr : s.src[s.pos]? with _ | r
    · exact .inr (.inr ⟨hcnt, rfl⟩)
    · exact .inr (.inl ⟨hcnt, r, rfl⟩)
  · exact .inl h

/-- GETBIT takes the first of the bits left, if there is one (R124). -/
theorem getBit_remaining (s : State) :
    (getBit s).1 = (remaining s).head? ∧ remaining (getBit s).2 = (remaining s).tail := by
  obtain h | ⟨hcnt, r, hr⟩ | ⟨hcnt, hr⟩ := unpacker_cases s
  · rw [getBit_of_held h, remaining_of_held h]
    exact ⟨rfl, rfl⟩
  · rw [getBit_of_fetch hcnt hr, remaining_of_fetch hcnt hr]
    exact ⟨rfl, rfl⟩
  · rw [getBit_of_end hcnt hr, remaining_of_end hcnt hr]
    exact ⟨rfl, remaining_of_end (s := { s with trace := _ }) hcnt hr⟩

/-- GETBIT by what the unpacker delivers (R124). -/
theorem exec_getbit {s t : State} {x : Option Bool} (h : getBit s = (x, t)) :
    exec .getbit s = .next { t with ret := x.elim .eof .bit } := by
  change execGetbit s = _
  rw [execGetbit, h]
  cases x <;> rfl

/-- Settles O25: a bit is delivered from the byte register or from a byte fetched; there is none left only with the
register empty at the end of the source. -/
theorem getbitDeliversTheNextBit : Obligations.GetbitDeliversTheNextBit := by
  intro s
  obtain h | ⟨hcnt, r, hr⟩ | ⟨hcnt, hr⟩ := unpacker_cases s
  · have hne : s.rdCnt ≠ 0 := fun e => h.ne' (congrArg Fin.val e)
    rw [exec_getbit (getBit_of_held h), remaining_of_held h]
    refine ⟨fun b l hl => ?_, nofun⟩
    obtain ⟨rfl, rfl⟩ := List.cons.inj hl
    exact ⟨_, rfl, rfl, rfl, fun _ => ⟨rfl, rfl, rfl⟩, fun e => absurd e hne, rfl⟩
  · rw [exec_getbit (getBit_of_fetch hcnt hr), remaining_of_fetch hcnt hr s.trace]
    refine ⟨fun b l hl => ?_, nofun⟩
    obtain ⟨rfl, rfl⟩ := List.cons.inj hl
    exact ⟨_, rfl, rfl, rfl, fun hne => absurd hcnt hne, fun _ => ⟨rfl, rfl, hr, rfl⟩, rfl⟩
  · rw [exec_getbit (getBit_of_end hcnt hr), remaining_of_end hcnt hr]
    exact ⟨nofun, fun _ => rfl⟩

theorem getBits_succ_of_end {s t : State} (n : Nat) (h : getBit s = (none, t)) :
    getBits (n + 1) s = (none, t) := by
  rw [getBits, h]

theorem getBits_succ_of_bit {s t : State} {b : Bool} (n : Nat) (h : getBit s = (some b, t)) :
    getBits (n + 1) s = ((getBits n t).1.map (b :: ·), (getBits n t).2) := by
  rw [getBits, h]
  dsimp only
  rcases getBits n t with ⟨_ | l, u⟩ <;> rfl

/-- A read takes its bits from the front of those left, and delivers them if there are enough (R125). -/
theorem getBits_remaining (n : Nat) (s : State) :
    (getBits n s).1 = (if n ≤ (remaining s).length then some ((remaining s).take n) else none) ∧
    remaining (getBits n s).2 = (remaining s).drop n := by
  induction n generalizing s with
  | zero => exact ⟨by simp [getBits], rfl⟩
  | succ n ih =>
    obtain ⟨hbit, hrest⟩ := getBit_remaining s
    cases hl : remaining s with
    | nil =>
      rw [hl] at hbit hrest
      rw [getBits_succ_of_end n (Prod.ext hbit rfl)]
      exact ⟨rfl, hrest⟩
    | cons b l =>
      rw [hl] at hbit hrest
      obtain ⟨hbits, hdrop⟩ := ih (getBit s).2
      rw [hrest] at hbits hdrop
      rw [getBits_succ_of_bit n (Prod.ext hbit rfl)]
      refine ⟨?_, hdrop⟩
      by_cases hn : n ≤ l.length <;> simp [hbits, hn]

theorem getBits_of_remaining {s : State} {l m : BitString} (h : remaining s = l ++ m) :
    ∃ t, getBits l.length s = (some l, t) ∧ remaining t = m := by
  obtain ⟨hbits, hrest⟩ := getBits_remaining l.length s
  refine ⟨_, Prod.ext ?_ rfl, ?_⟩
  · simp [hbits, h]
  · simp [hrest, h]

/-- READBITS by what its GETBITs delivered (R125). -/
theorem exec_readbits {n : Nat} (hpos : 1 ≤ n) (hle : n ≤ 32) {s t : State} {x : Option BitString}
    (h : getBits n s = (x, t)) :
    exec (.readbits n) s = .next { t with ret := x.elim .eof fun l => .value (BitVec.ofNat 32 (numeral l)) } := by
  change execReadbits n s = _
  rw [execReadbits, if_pos (by simp [widthOk, hpos, hle]), readBits, h]
  cases x <;> rfl

/-- Settles O26: the bits read are the first `n` of those left. -/
theorem readbitsReturnsTheNumeral : Obligations.ReadbitsReturnsTheNumeral := by
  intro s n hpos hle
  obtain ⟨hbits, hrest⟩ := getBits_remaining n s
  refine ⟨_, exec_readbits hpos hle (Prod.eta _).symm, ?_, fun h => ⟨hrest, ?_⟩, fun h => ⟨?_, ?_⟩⟩
  · rw [getBits_frame]
  · rw [hbits, if_pos h]
    rfl
  · exact hrest.trans (List.drop_eq_nil_of_le h.le)
  · rw [hbits, if_neg (Nat.not_le.mpr h)]
    rfl

/-! ### Whole bytes -/

/-- The bits held in the byte register, read all at once (R124, R125). -/
theorem getBits_held (n : Nat) {s : State} (h : s.rdCnt.val = n) :
    getBits n s = (some (bitsOf n s.rdByte.toNat), { s with rdCnt := 0 }) := by
  induction n generalizing s with
  | zero =>
    have hcnt : s.rdCnt = 0 := Fin.ext h
    rw [← hcnt]
    rfl
  | succ n ih =>
    rw [getBits_succ_of_bit n (getBit_of_held (by omega)), ih (by simp only; omega)]
    simp only [h]
    rfl

/-- Eight bits read with the byte register empty are the next byte (R129). -/
theorem getBits_byte {s : State} {r : Byte} (hcnt : s.rdCnt = 0) (hr : s.src[s.pos]? = some r) :
    getBits 8 s = (some (bitsOf 8 r.toNat), { s with
      rdByte := r, pos := s.pos + 1, trace := s.trace ++ [.srcNext (some r)] }) := by
  rw [getBits_succ_of_bit 7 (getBit_of_fetch hcnt hr), getBits_held 7 rfl, ← hcnt]
  rfl

/-- Settles O27: eight bits are one byte, read or written. -/
theorem wholeBytes : Obligations.WholeBytes := by
  intro s
  refine ⟨fun b hcnt hb => ?_, fun hcnt hend => ?_, fun v hcnt hacc hopen => ?_⟩
  · rw [exec_readbits (by decide) (by decide) (getBits_byte hcnt hb)]
    simp only [Option.elim_some, numeral_bitsOf]
    rw [Nat.mod_eq_of_lt b.isLt, BitVec.ofNat_toNat]
  · exact exec_readbits (by decide) (by decide) (getBits_succ_of_end 7 (getBit_of_end hcnt hend))
  · have hlow : bitsOf 8 v.toNat = bitsOf 8 (v.setWidth 8).toNat := by
      rw [BitVec.toNat_setWidth, bitsOf_mod]
    rw [exec_writebits (n := 8) (by decide) (by decide), writeBits, hlow, ← writeBits, writeBits_byte _ hcnt hacc,
      snkPut_opened _ hopen]

/-! ### Closing, and the round trip -/

/-- CLOSE with no bit pending (R122). -/
theorem closeOut_of_empty {s : State} (h : s.wrCnt = 0) : closeOut s = snkClose s := by
  simp [closeOut, h]

/-- CLOSE with bits pending flushes them as one byte (R122). -/
theorem closeOut_of_pending {s : State} (h : s.wrCnt ≠ 0) :
    closeOut s = snkClose { snkPut s.wrAcc s with wrAcc := 0, wrCnt := 0 } :=
  congrArg snkClose (if_pos (Fin.pos_iff_ne_zero.mpr h))

/-- Settles O22: each operation is its record update; CLOSE by whether bits are pending. -/
theorem channelControl : Obligations.ChannelControl := by
  intro s
  refine ⟨rfl, rfl, rfl, fun h => ?_, fun h hopen => ?_⟩
  · exact congrArg _ (closeOut_of_empty h)
  · change Host.Outcome.next (closeOut s) = _
    rw [closeOut_of_pending h, snkPut_opened _ hopen]
    simp [snkClose]

/-- Every bit written so far: those of the bytes put, then those pending (R33, R64). -/
def written (s : State) : BitString := unpackBytes s.out ++ pending s

theorem pending_of_empty {s : State} (h : s.wrCnt = 0) : pending s = [] := by
  rw [pending, h]
  rfl

/-- The first bits of a byte, by position. -/
theorem take_bitsOf_eight {c : Nat} (hc : c ≤ 8) (x : Byte) :
    (bitsOf 8 x.toNat).take c = (List.range c).map fun i => x.getLsbD (7 - i) := by
  rw [bitsOf_eq_map, ← List.map_take, List.take_range, Nat.min_eq_left hc]
  simp only [BitVec.testBit_toNat, Nat.add_one_sub_one]

/-- Setting the next bit place of a byte appends the bit to those before it (R120). -/
theorem take_bitsOf_setBit (acc : Byte) (b : Bool) {c : Nat} (hc : c < 8) :
    (bitsOf 8 (setBit acc (7 - c) b).toNat).take (c + 1) = (bitsOf 8 acc.toNat).take c ++ [b] := by
  rw [take_bitsOf_eight hc, take_bitsOf_eight hc.le, List.range_succ, List.map_append]
  refine congrArg₂ _ (List.map_congr_left fun i hi => ?_) ?_
  · have := List.mem_range.mp hi
    rw [getLsbD_setBit _ _ (by omega), if_neg (by omega)]
  · simp [getLsbD_setBit _ _ (show 7 - c < 8 by omega)]

/-- PUTBIT writes its bit after those written so far (R120, R128). -/
theorem written_putBit (b : Bool) {s : State} (hopen : s.snk = .opened) :
    written (putBit b s) = written s ++ [b] := by
  have htake := take_bitsOf_setBit s.wrAcc b s.wrCnt.isLt
  rcases Nat.lt_or_ge s.wrCnt.val 7 with h | h
  · rw [putBit_of_room b h, written, written, List.append_assoc]
    exact congrArg _ htake
  · have hfull : s.wrCnt.val = 7 := by omega
    rw [List.take_of_length_le (by simp [hfull])] at htake
    rw [putBit_of_full b hfull, snkPut_opened _ hopen, written, written, List.append_assoc, pending_of_empty rfl,
      pending, ← htake]
    simp [unpackBytes]

theorem written_putBits (l : BitString) {s : State} (hopen : s.snk = .opened) :
    written (putBits l s) = written s ++ l := by
  induction l generalizing s with
  | nil => simp
  | cons b l ih => rw [putBits_cons, ih (by simpa using hopen), written_putBit b hopen, ← List.append_cons]

/-- CLOSE completes what was written with zero bits to whole bytes (R122). -/
theorem unpackBytes_closeOut {s : State} (hopen : s.snk = .opened) (hclean : PackerClean s) :
    unpackBytes (closeOut s).out = written s ++ List.replicate ((8 - s.wrCnt.val) % 8) false := by
  by_cases h : s.wrCnt = 0
  · simp [closeOut_of_empty h, written, pending_of_empty h, h]
  · have hlt := s.wrCnt.isLt
    have hpos : 0 < s.wrCnt.val := Fin.pos_iff_ne_zero.mpr h
    have hpad : (bitsOf 8 s.wrAcc.toNat).drop s.wrCnt.val = List.replicate (8 - s.wrCnt.val) false := by
      rw [← bitsOf_eq_replicate hclean, ← drop_bitsOf (Nat.sub_le 8 _), Nat.sub_sub_self hlt.le]
    rw [closeOut_of_pending h, snkPut_opened _ hopen, Nat.mod_eq_of_lt (by omega), written, pending, ← hpad,
      List.append_assoc, List.take_append_drop]
    simp [unpackBytes]

theorem packerClean_putBits (l : BitString) {s : State} (h : PackerClean s) : PackerClean (putBits l s) := by
  induction l generalizing s with
  | nil => exact h
  | cons b l ih => exact ih (packerClean_putBit b h)

/-- A string put from an empty packer and closed is the string and its zero padding, in whole bytes (R128). -/
theorem unpackBytes_closeOut_putBits (l : BitString) {s : State} (hacc : s.wrAcc = 0) (hcnt : s.wrCnt = 0)
    (hopen : s.snk = .opened) (hout : s.out = []) :
    unpackBytes (closeOut (putBits l s)).out = l ++ List.replicate ((8 - l.length % 8) % 8) false := by
  have hopen' : (putBits l s).snk = .opened := by rw [putBits_frame, hopen]
  have hempty : written s = [] := by rw [written, hout, pending_of_empty hcnt]; rfl
  rw [unpackBytes_closeOut hopen' (packerClean_putBits l (packerClean_empty hacc)), written_putBits l hopen, hempty,
    putBits_wrCnt, hcnt, List.nil_append]
  simp

/-- Settles O28: an unpacker at the start of the bytes put has the string and its padding left. -/
theorem packThenUnpack : Obligations.PackThenUnpack := by
  intro s u l hacc hcnt hopen hout
  have hbits := unpackBytes_closeOut_putBits l hacc hcnt hopen hout
  have hlen := congrArg List.length hbits
  rw [unpackBytes_length, List.length_append, List.length_replicate] at hlen
  refine ⟨_, execSeq_map_putbit_append l [.close] s, by omega, fun hsrc hpos hrd => ?_⟩
  have hrem : remaining u = l ++ List.replicate ((8 - l.length % 8) % 8) false := by
    rw [remaining_eq, hrd, hsrc, hpos, ← hbits]
    rfl
  obtain ⟨v, hv, hpad⟩ := getBits_of_remaining hrem
  obtain ⟨w, hw, hend⟩ := getBits_of_remaining (hpad.trans (List.append_nil _).symm)
  rw [List.length_replicate] at hw
  refine ⟨v, w, hv, hw, ?_⟩
  rw [(getBit_remaining w).1, hend]
  rfl

end Sys2Proof.Proofs
end

section
/-! The frequency counter (R140 to R142): counting a byte as a function on states, and FC.RUN as that function
taken along the source. -/

namespace Sys2Proof.Proofs

open Sys2Proof.Machine Sys2Proof.Laws

/-! ### One count -/

@[simp] theorem clearCounts_par (s : State) : (clearCounts s).par = s.par := rfl
@[simp] theorem clearCounts_total (s : State) : (clearCounts s).total = 1 := rfl
@[simp] theorem clearCounts_rdCnt (s : State) : (clearCounts s).rdCnt = s.rdCnt := rfl
@[simp] theorem clearCounts_src (s : State) : (clearCounts s).src = s.src := rfl
@[simp] theorem clearCounts_pos (s : State) : (clearCounts s).pos = s.pos := rfl
@[simp] theorem clearCounts_trace (s : State) : (clearCounts s).trace = s.trace := rfl

@[simp] theorem clearCounts_get (s : State) (y : Sym) :
    (clearCounts s).freq.get y = if y = pseudoEof then 1 else 0 := get_table _ y

theorem bumpCount_total (v : Sym) {s : State} (h : s.total + 1 < 2 ^ s.par.w) :
    (bumpCount v s).total = s.total + 1 := Nat.mod_eq_of_lt h

theorem bumpCount_get {v y : Sym} {s : State} (h : s.freq.get y + 1 < 2 ^ s.par.w) :
    (bumpCount v s).freq.get y = if y = v then s.freq.get y + 1 else s.freq.get y := by
  change (s.freq.set v.val (addW s (s.freq.get v) 1) v.isLt).get y = _
  split
  next heq =>
    subst heq
    rw [get_set_same, addW, Nat.mod_eq_of_lt h]
  next hne => exact get_set_ne _ _ (Ne.symm hne)

theorem get_le_countSum (s : State) (y : Sym) : s.freq.get y ≤ countSum s :=
  List.le_sum_of_mem (List.mem_map_of_mem (List.mem_finRange y))

/-! ### FC.COUNT -/

/-- What reading a whole byte with the byte register empty leaves (R129). -/
def takeByte (b : Byte) (s : State) : State :=
  { s with rdByte := b, pos := s.pos + 1, trace := s.trace ++ [.srcNext (some b)] }

/-- What asking the source for a byte leaves at its end (R60). -/
def takeEof (s : State) : State := { s with trace := s.trace ++ [.srcNext none] }

/-- What FC.COUNT leaves when the byte is counted (R141). -/
def countByte (b : Byte) (s : State) : State := bumpCount (symOfByte b) (takeByte b s)

@[simp] theorem countByte_par (b : Byte) (s : State) : (countByte b s).par = s.par := rfl
@[simp] theorem countByte_rdCnt (b : Byte) (s : State) : (countByte b s).rdCnt = s.rdCnt := rfl
@[simp] theorem countByte_src (b : Byte) (s : State) : (countByte b s).src = s.src := rfl
@[simp] theorem countByte_pos (b : Byte) (s : State) : (countByte b s).pos = s.pos + 1 := rfl
@[simp] theorem countByte_trace (b : Byte) (s : State) :
    (countByte b s).trace = s.trace ++ [.srcNext (some b)] := rfl

theorem countByte_total (b : Byte) {s : State} (h : s.total + 1 < 2 ^ s.par.w) :
    (countByte b s).total = s.total + 1 := bumpCount_total (s := takeByte b s) _ h

theorem countByte_get (b : Byte) {y : Sym} {s : State} (h : s.freq.get y + 1 < 2 ^ s.par.w) :
    (countByte b s).freq.get y = if y = symOfByte b then s.freq.get y + 1 else s.freq.get y :=
  bumpCount_get (s := takeByte b s) h

/-- The low byte of what READBITS 8 returns is the byte read (R125, R129). -/
theorem setWidth_numeral_byte (b : Byte) : (BitVec.ofNat 32 (numeral (bitsOf 8 b.toNat))).setWidth 8 = b := by
  rw [numeral_bitsOf, Nat.mod_eq_of_lt b.isLt]
  exact BitVec.eq_of_toNat_eq (by simp)

theorem readBits_byte {s : State} {b : Byte} (hcnt : s.rdCnt = 0) (hb : s.src[s.pos]? = some b) :
    readBits 8 s = (some (BitVec.ofNat 32 (numeral (bitsOf 8 b.toNat))), takeByte b s) := by
  rw [readBits, getBits_byte hcnt hb]
  rfl

theorem countOne_of_end {s : State} (hcnt : s.rdCnt = 0) (hend : s.src[s.pos]? = none) :
    countOne s = .ok false (takeEof s) := by
  rw [countOne, readBits, getBits_succ_of_end 7 (getBit_of_end hcnt hend)]
  rfl

theorem countOne_of_byte {s : State} {b : Byte} (hcnt : s.rdCnt = 0) (hb : s.src[s.pos]? = some b)
    (hroom : s.total ≠ 2 ^ s.par.w - 1) : countOne s = .ok true (countByte b s) := by
  rw [countOne, readBits_byte hcnt hb]
  dsimp only
  rw [setWidth_numeral_byte]
  exact if_neg hroom

theorem countOne_of_overflow {s : State} {b : Byte} (hcnt : s.rdCnt = 0) (hb : s.src[s.pos]? = some b)
    (hfull : s.total = 2 ^ s.par.w - 1) : countOne s = .raised (raise .countOverflow (takeByte b s)) := by
  rw [countOne, readBits_byte hcnt hb]
  exact if_pos hfull

theorem exec_fcCount (s : State) : exec .fcCount s =
    (countOne s).toOutcome fun more t => { t with ret := if more then .more else .finished } := rfl

/-- Settles O29: the byte read, or the end met, decides what is counted, and a full TOTAL leaves the byte read
uncounted. -/
theorem countingSteps : Obligations.CountingSteps := by
  intro s
  refine ⟨⟨clearCounts s, rfl, rfl, ?_, fun y hy => ?_⟩, fun hcnt hend => ?_, fun b hcnt hb hsum hroom => ?_,
    fun b hcnt hb hfull hphase => ?_⟩
  · rw [clearCounts_get, if_pos rfl]
  · rw [clearCounts_get, if_neg hy]
  · rw [exec_fcCount, countOne_of_end hcnt hend]
    rfl
  · rw [exec_fcCount, countOne_of_byte hcnt hb hroom.ne]
    refine ⟨_, rfl, ?_, fun y => countByte_get b ?_⟩
    · rw [← countByte_total b (by omega)]
      rfl
    · have hle := get_le_countSum s y
      omega
  · rw [exec_fcCount, countOne_of_overflow hcnt hb hfull, raise_working _ (takeByte b s) hphase]
    simp [takeByte, Res.toOutcome, errCode]

/-! ### Counting a run of bytes -/

/-- Each byte counted, first to last (R142). -/
def countBytes (l : List Byte) (s : State) : State := l.foldl (fun t b => countByte b t) s

@[simp] theorem countBytes_nil (s : State) : countBytes [] s = s := rfl

@[simp] theorem countBytes_cons (b : Byte) (l : List Byte) (s : State) :
    countBytes (b :: l) s = countBytes l (countByte b s) := rfl

/-- All that counting can change (R141). -/
theorem countBytes_frame (l : List Byte) (s : State) : countBytes l s = { s with
    freq := (countBytes l s).freq, total := (countBytes l s).total, pos := (countBytes l s).pos,
    rdByte := (countBytes l s).rdByte, trace := (countBytes l s).trace } := by
  induction l generalizing s with
  | nil => rfl
  | cons b l ih => exact ih (countByte b s)

@[simp] theorem countBytes_par (l : List Byte) (s : State) : (countBytes l s).par = s.par := by
  rw [countBytes_frame]

@[simp] theorem countBytes_rdCnt (l : List Byte) (s : State) : (countBytes l s).rdCnt = s.rdCnt := by
  rw [countBytes_frame]

@[simp] theorem countBytes_src (l : List Byte) (s : State) : (countBytes l s).src = s.src := by
  rw [countBytes_frame]

@[simp] theorem countBytes_pos (l : List Byte) (s : State) : (countBytes l s).pos = s.pos + l.length := by
  induction l generalizing s with
  | nil => rfl
  | cons b l ih => rw [countBytes_cons, ih, countByte_pos, List.length_cons]; omega

@[simp] theorem nextsIn_concat_srcNext (l : List Txn) (r : Option Byte) :
    nextsIn (l ++ [.srcNext r]) = nextsIn l + 1 := by
  simp [nextsIn]

@[simp] theorem nextsIn_countBytes (l : List Byte) (s : State) :
    nextsIn (countBytes l s).trace = nextsIn s.trace + l.length := by
  induction l generalizing s with
  | nil => rfl
  | cons b l ih => rw [countBytes_cons, ih, countByte_trace, nextsIn_concat_srcNext, List.length_cons]; omega

/-- TOTAL goes up by one for each byte while it fits in W bits (R143). -/
theorem countBytes_total {l : List Byte} {s : State} (h : s.total + l.length < 2 ^ s.par.w) :
    (countBytes l s).total = s.total + l.length := by
  induction l generalizing s with
  | nil => rfl
  | cons b l ih =>
    rw [List.length_cons] at h ⊢
    have hone := countByte_total b (s := s) (by omega)
    have hfit : (countByte b s).total + l.length < 2 ^ (countByte b s).par.w := by
      rw [hone, countByte_par]
      omega
    rw [countBytes_cons, ih hfit, hone]
    omega

/-- A count goes up by the occurrences of its symbol while it fits in W bits (R143). -/
theorem countBytes_get {y : Sym} {l : List Byte} {s : State} (h : s.freq.get y + l.length < 2 ^ s.par.w) :
    (countBytes l s).freq.get y = s.freq.get y + (l.map symOfByte).count y := by
  induction l generalizing s with
  | nil => rfl
  | cons b l ih =>
    rw [List.length_cons] at h
    have hone := countByte_get b (y := y) (s := s) (by omega)
    have hfit : (countByte b s).freq.get y + l.length < 2 ^ (countByte b s).par.w := by
      rw [hone, countByte_par]
      split <;> omega
    rw [countBytes_cons, ih hfit, hone, List.map_cons, List.count_cons]
    by_cases hy : y = symOfByte b
    · simp [hy]
      omega
    · simp [hy, Ne.symm hy]

/-! ### The symbols of bytes (R99) -/

theorem symOfByte_val (b : Byte) : (symOfByte b).val = b.toNat :=
  Nat.mod_eq_of_lt (b.isLt.trans (by decide : 2 ^ 8 < 257))

theorem symOfByte_injective : Function.Injective symOfByte := fun a b h => by
  have hval := congrArg Fin.val h
  rw [symOfByte_val, symOfByte_val] at hval
  exact BitVec.eq_of_toNat_eq hval

theorem symOfByte_ne_pseudoEof (b : Byte) : symOfByte b ≠ pseudoEof := fun h =>
  b.isLt.ne ((symOfByte_val b).symm.trans (congrArg Fin.val h))

theorem count_pseudoEof_map_symOfByte (l : List Byte) : (l.map symOfByte).count pseudoEof = 0 := by
  refine List.count_eq_zero_of_not_mem fun hmem => ?_
  obtain ⟨b, -, hb⟩ := List.mem_map.mp hmem
  exact symOfByte_ne_pseudoEof b hb

/-! ### FC.RUN -/

/-- The loop counts the bytes next in the source as long as TOTAL has room for them (R142). -/
theorem countLoop_of_bytes {l m : List Byte} {s : State} (n : Nat) (hcnt : s.rdCnt = 0)
    (hsrc : s.src.drop s.pos = l ++ m) (hroom : s.total + l.length < 2 ^ s.par.w) :
    countLoop (l.length + n) s = countLoop n (countBytes l s) := by
  induction l generalizing s with
  | nil => simp
  | cons b l ih =>
    rw [List.length_cons] at hroom ⊢
    have hb : s.src[s.pos]? = some b := by rw [← List.head?_drop, hsrc]; rfl
    have htail : s.src.drop (s.pos + 1) = l ++ m := by rw [← List.tail_drop, hsrc]; rfl
    have hone := countByte_total b (s := s) (by omega)
    have hroom' : (countByte b s).total + l.length < 2 ^ (countByte b s).par.w := by
      rw [hone, countByte_par]
      omega
    rw [Nat.add_right_comm, countLoop, countOne_of_byte hcnt hb (by omega), bind_ok, if_pos rfl, countBytes_cons]
    exact ih hcnt htail hroom'

/-- FC.RUN has counted the first bytes of the source, as many as TOTAL has room for, before it takes the next
(R142). -/
theorem countAll_of_prefix {s : State} {l m : List Byte} (hcnt : s.rdCnt = 0) (hpos : s.pos = 0)
    (hsrc : s.src = l ++ m) (hroom : 1 + l.length < 2 ^ s.par.w) :
    countAll s = countLoop (m.length + 2) (countBytes l (clearCounts s)) := by
  have hdrop : (clearCounts s).src.drop (clearCounts s).pos = l ++ m := by simp [hpos, hsrc]
  have hfuel : s.src.length - s.pos + 2 = l.length + (m.length + 2) := by
    rw [hpos, hsrc, List.length_append]
    omega
  rw [countAll, hfuel, countLoop_of_bytes (s := clearCounts s) _ hcnt hdrop hroom]

/-- FC.RUN where TOTAL has room for every byte of the source (R142). -/
theorem countAll_of_fits {s : State} (hcnt : s.rdCnt = 0) (hpos : s.pos = 0) (hfit : 1 + s.src.length < 2 ^ s.par.w) :
    countAll s = .ok () (takeEof (countBytes s.src (clearCounts s))) := by
  rw [countAll_of_prefix hcnt hpos (List.append_nil _).symm hfit, countLoop,
    countOne_of_end (by simpa using hcnt) (by simp)]
  rfl

/-- FC.RUN on a source with more bytes than TOTAL has room for: count-overflow, the byte read but not counted
(R141, R142). -/
theorem countAll_of_overflow {s : State} {l m : List Byte} {b : Byte} (hcnt : s.rdCnt = 0) (hpos : s.pos = 0)
    (hsrc : s.src = l ++ b :: m) (hfull : 1 + l.length = 2 ^ s.par.w - 1) :
    countAll s = .raised (raise .countOverflow (takeByte b (countBytes l (clearCounts s)))) := by
  have hroom : 1 + l.length < 2 ^ s.par.w := by omega
  have hb : (countBytes l (clearCounts s)).src[(countBytes l (clearCounts s)).pos]? = some b := by simp [hpos, hsrc]
  have htotal : (countBytes l (clearCounts s)).total = 2 ^ (countBytes l (clearCounts s)).par.w - 1 := by
    rw [countBytes_total (s := clearCounts s) hroom, countBytes_par]
    exact hfull
  rw [countAll_of_prefix hcnt hpos hsrc hroom, countLoop, countOne_of_overflow (by simpa using hcnt) hb htotal]
  rfl

/-- Counted from cleared counts, a symbol has its occurrences, and one more for the end marker (R142). -/
theorem get_countBytes_clearCounts {s : State} {l : List Byte} (hfit : 1 + l.length < 2 ^ s.par.w) (y : Sym) :
    (countBytes l (clearCounts s)).freq.get y = (if y = pseudoEof then 1 else 0) + (l.map symOfByte).count y := by
  have hroom : (clearCounts s).freq.get y + l.length < 2 ^ (clearCounts s).par.w := by
    rw [clearCounts_get, clearCounts_par]
    split <;> omega
  rw [countBytes_get hroom, clearCounts_get]

theorem countBytes_clearCounts_total {s : State} {l : List Byte} (hfit : 1 + l.length < 2 ^ s.par.w) :
    (countBytes l (clearCounts s)).total = l.length + 1 :=
  (countBytes_total (s := clearCounts s) hfit).trans (Nat.add_comm 1 _)

theorem exec_fcRun (s : State) : exec .fcRun s = (countAll s).toOutcome fun _ t => t := rfl

/-- Settles O30: FC.RUN counts along the source while TOTAL has room, so the count of a symbol is its occurrences;
TOTAL is full just when byte `2 ^ W - 2` is read. -/
theorem countingPass : Obligations.CountingPass := by
  intro s hcnt hpos hw
  have hpow : 2 ≤ 2 ^ s.par.w := Nat.pow_le_pow_right (n := 2) (by decide) hw
  refine ⟨fun hle => ?_, fun hlt => ?_⟩
  · have hfit : 1 + s.src.length < 2 ^ s.par.w := by omega
    have hget := get_countBytes_clearCounts hfit
    rw [exec_fcRun, countAll_of_fits hcnt hpos hfit]
    refine ⟨_, rfl, fun b => ?_, ?_, countBytes_clearCounts_total hfit, ?_, ?_, ?_, ?_⟩
    · refine (hget _).trans ?_
      rw [if_neg (symOfByte_ne_pseudoEof b), Nat.zero_add, List.count_map_of_injective _ _ symOfByte_injective]
    · refine (hget _).trans ?_
      rw [if_pos rfl, count_pseudoEof_map_symOfByte]
    · simp [takeEof, hpos]
    · simp [takeEof, hcnt]
    · simp [takeEof]
    · rw [takeEof, countBytes_frame]
      rfl
  · have hsrc : s.src = s.src.take (2 ^ s.par.w - 2) ++
        s.src[2 ^ s.par.w - 2] :: s.src.drop (2 ^ s.par.w - 2 + 1) := by
      rw [← List.drop_eq_getElem_cons hlt, List.take_append_drop]
    have hlen : (s.src.take (2 ^ s.par.w - 2)).length = 2 ^ s.par.w - 2 := List.length_take_of_le hlt.le
    rw [exec_fcRun, countAll_of_overflow hcnt hpos hsrc (by omega)]
    refine ⟨_, rfl, rfl, rfl, ?_, ?_⟩
    · simp only [raise_pos, takeByte, countBytes_pos, clearCounts_pos, hlen]
      omega
    · simp only [raise_total, takeByte]
      rw [countBytes_clearCounts_total (by omega), hlen]
      omega

end Sys2Proof.Proofs
end

section
/-! One selection and one merge of the tree builder (R150 to R152): which node the selection finds, and the
state a merge of two given nodes leaves. -/

namespace Sys2Proof.Proofs

open Sys2Proof.Machine Sys2Proof.Laws

/-! ### TB.INIT -/

theorem exec_tbInit (s : State) : exec .tbInit s = .next (initLeaves s) := rfl

@[simp] theorem initLeaves_nodeCnt (s : State) : (initLeaves s).nodeCnt.val = (usedSyms s).length := rfl

/-- Entry `k` holds the leaf of the `k`-th used symbol (R150). -/
theorem nodeAt_initLeaves_of_used {s : State} {i : NodeIx} {y : Sym} (h : (usedSyms s)[i.val]? = some y) :
    nodeAt (initLeaves s) i = countLeaf s y := by
  rw [nodeAt, initLeaves, get_table, h]

theorem nodeAt_initLeaves_of_above {s : State} {i : NodeIx} (h : (usedSyms s)[i.val]? = none) :
    nodeAt (initLeaves s) i = nodeAt s i := by
  rw [nodeAt, initLeaves, get_table, h, nodeAt]

theorem alive_initLeaves (s : State) (i : NodeIx) :
    (initLeaves s).alive.get i = if i.val < (usedSyms s).length then true else s.alive.get i :=
  get_table _ i

/-- Settles O31: the table of leaves read entry by entry. -/
theorem leavesInitialised : Obligations.LeavesInitialised := by
  intro s
  refine ⟨initLeaves s, exec_tbInit s, initLeaves_frame s, rfl, fun i => ?_⟩
  split
  next y hy =>
    have hlt : i.val < (usedSyms s).length := (List.getElem?_eq_some_iff.mp hy).1
    exact ⟨nodeAt_initLeaves_of_used hy, by rw [alive_initLeaves, if_pos hlt]⟩
  next hnone =>
    have hge : ¬ i.val < (usedSyms s).length := Nat.not_lt.mpr (List.getElem?_eq_none_iff.mp hnone)
    exact ⟨nodeAt_initLeaves_of_above hnone, by rw [alive_initLeaves, if_neg hge]⟩

/-! ### TB.MIN -/

/-- Of an ascending list the selection returns the index with the least pair (WEIGHT, index) (R151). -/
theorem leastOf_least {s : State} {l : List NodeIx} {i : NodeIx} (hl : l.Pairwise (· < ·))
    (h : leastOf s l = some i) {k : NodeIx} (hk : k ∈ l) :
    (nodeAt s i).weight < (nodeAt s k).weight ∨ (nodeAt s i).weight = (nodeAt s k).weight ∧ i ≤ k := by
  induction l generalizing i with
  | nil => cases hk
  | cons j l ih =>
    obtain ⟨hj, htail⟩ := List.pairwise_cons.mp hl
    rw [leastOf] at h
    split at h
    next hnone =>
      have hnil : l = [] := by
        by_contra hne
        simpa [hnone] using leastOf_isSome s l hne
      obtain rfl := Option.some.inj h
      obtain rfl : k = j := by simpa [hnil] using hk
      exact .inr ⟨rfl, le_rfl⟩
    next m hm =>
      split at h <;> obtain rfl := Option.some.inj h
      next hlt =>
        rcases List.mem_cons.mp hk with rfl | hk
        · exact .inl hlt
        · exact ih htail hm hk
      next hge =>
        rcases List.mem_cons.mp hk with rfl | hk
        · exact .inr ⟨rfl, le_rfl⟩
        · have hjk : j ≤ k := (hj k hk).le
          have hjm := Nat.not_lt.mp hge
          rcases ih htail hm hk with hmk | ⟨hmk, -⟩
          · exact .inl (hjm.trans_lt hmk)
          · exact (hjm.trans_eq hmk).lt_or_eq.imp_right fun heq => ⟨heq, hjk⟩

theorem aliveNodes_ascending (s : State) : (aliveNodes s).Pairwise (· < ·) :=
  (List.pairwise_lt_finRange 513).filter _

theorem aliveNodes_nodup (s : State) : (aliveNodes s).Nodup := (aliveNodes_ascending s).imp ne_of_lt

/-- TB.MIN returns the alive node with the least pair (WEIGHT, index) (R151). -/
theorem minNode_least {s : State} {i k : NodeIx} (h : minNode s = some i) (hk : k ∈ aliveNodes s) :
    (nodeAt s i).weight < (nodeAt s k).weight ∨ (nodeAt s i).weight = (nodeAt s k).weight ∧ i ≤ k := by
  rw [minNode] at h
  exact leastOf_least (aliveNodes_ascending s) h hk

theorem exec_tbMin_of_minNode {s : State} {i : NodeIx} (h : minNode s = some i) :
    exec .tbMin s = .next { s with ret := .node i } := by
  change execTbMin s = _
  unfold execTbMin
  simp only [h]

/-- Settles O32: the selection takes the first of least weight of the alive nodes in ascending order. -/
theorem minIsLeast : Obligations.MinIsLeast := by
  intro s j hlt halive
  obtain ⟨i, hi⟩ := minNode_isSome hlt halive
  obtain ⟨hilt, hialive⟩ := minNode_alive hi
  exact ⟨i, exec_tbMin_of_minNode hi, hilt, hialive, fun k hklt hkalive =>
    minNode_least hi (mem_aliveNodes.mpr ⟨hklt, hkalive⟩)⟩

/-! ### TB.MERGE -/

/-- The Internal node over `a` and `b` (R152). -/
def parentNode (a b : NodeIx) (s : State) : Node :=
  { kind := .internal, value := 0, weight := addW s (nodeAt s a).weight (nodeAt s b).weight, left := a, right := b }

/-- What a merge of `a` and `b` leaves, the new node at the free index `n` (R152). -/
def joinNodes (a b n : NodeIx) (s : State) : State :=
  setAlive n true
    { setNode n (parentNode a b s) (setAlive b false (setAlive a false s)) with
      nodeCnt := ⟨n.val + 1, by omega⟩ }

theorem joinNodes_frame (a b n : NodeIx) (s : State) : joinNodes a b n s = { s with
    node := (joinNodes a b n s).node, alive := (joinNodes a b n s).alive,
    nodeCnt := (joinNodes a b n s).nodeCnt } := rfl

@[simp] theorem joinNodes_nodeCnt (a b n : NodeIx) (s : State) : (joinNodes a b n s).nodeCnt.val = n.val + 1 := rfl

@[simp] theorem nodeAt_joinNodes_new (a b n : NodeIx) (s : State) :
    nodeAt (joinNodes a b n s) n = parentNode a b s := get_set_same _ _ _

theorem nodeAt_joinNodes_old {i n : NodeIx} (a b : NodeIx) (s : State) (h : i ≠ n) :
    nodeAt (joinNodes a b n s) i = nodeAt s i := get_set_ne _ _ h.symm

theorem alive_setAlive (a i : NodeIx) (x : Bool) (s : State) :
    (setAlive a x s).alive.get i = if i = a then x else s.alive.get i := by
  split
  next h => rw [h, alive_setAlive_same]
  next h => exact alive_setAlive_ne _ _ (Ne.symm h)

@[simp] theorem alive_joinNodes_new (a b n : NodeIx) (s : State) : (joinNodes a b n s).alive.get n = true :=
  get_set_same _ _ _

theorem alive_joinNodes_old {i n : NodeIx} (a b : NodeIx) (s : State) (h : i ≠ n) :
    (joinNodes a b n s).alive.get i = (setAlive b false (setAlive a false s)).alive.get i := get_set_ne _ _ h.symm

theorem alive_joinNodes (a b n i : NodeIx) (s : State) : (joinNodes a b n s).alive.get i =
    if i = n then true else if i = a ∨ i = b then false else s.alive.get i := by
  rcases eq_or_ne i n with rfl | hne
  · rw [alive_joinNodes_new, if_pos rfl]
  · rw [alive_joinNodes_old _ _ _ hne, if_neg hne, alive_setAlive, alive_setAlive]
    simp only [or_comm (a := i = a), ite_or]

/-- TB.MERGE joins the node selected first and the one selected from the rest (R152). -/
theorem mergeTwo_eq_join {s : State} {a b : NodeIx} (ha : minNode s = some a)
    (hb : minNode (setAlive a false s) = some b) (hfree : s.nodeCnt.val < 513) :
    mergeTwo s = .ok ⟨s.nodeCnt.val, hfree⟩ (joinNodes a b ⟨s.nodeCnt.val, hfree⟩ s) := by
  unfold mergeTwo
  simp only [ha, hb]
  rw [newNode, dif_pos (show (setAlive b false (setAlive a false s)).nodeCnt.val < 513 from hfree)]
  rfl

/-- With two nodes alive both selections of TB.MERGE succeed, and on different nodes (R152). -/
theorem two_selections {s : State} {p q : NodeIx} (hpq : p ≠ q) (hp : p ∈ aliveNodes s) (hq : q ∈ aliveNodes s) :
    ∃ a b, minNode s = some a ∧ minNode (setAlive a false s) = some b ∧ a ≠ b := by
  rw [mem_aliveNodes] at hp hq
  obtain ⟨a, ha⟩ := minNode_isSome hp.1 hp.2
  obtain ⟨r, hra, hrlt, hralive⟩ : ∃ r, r ≠ a ∧ r.val < s.nodeCnt.val ∧ s.alive.get r = true := by
    rcases eq_or_ne p a with rfl | hne
    · exact ⟨q, hpq.symm, hq⟩
    · exact ⟨p, hne, hp⟩
  obtain ⟨b, hb⟩ := minNode_isSome (s := setAlive a false s) hrlt ((alive_setAlive_ne _ _ hra.symm).trans hralive)
  refine ⟨a, b, ha, hb, ?_⟩
  rintro rfl
  simpa [-setAlive_alive] using (minNode_alive hb).2

theorem exec_tbMerge (s : State) : exec .tbMerge s = (mergeTwo s).toOutcome fun _ t => t := rfl

/-- Settles O33: both selections succeed, and the merge joins what they found. -/
theorem mergeTakesTheTwoLeast : Obligations.MergeTakesTheTwoLeast := by
  intro s p q hpq hp hq hpalive hqalive hfree
  obtain ⟨a, b, ha, hb, hab⟩ :=
    two_selections hpq (mem_aliveNodes.mpr ⟨hp, hpalive⟩) (mem_aliveNodes.mpr ⟨hq, hqalive⟩)
  refine ⟨a, b, ⟨s.nodeCnt.val, hfree⟩, joinNodes a b ⟨s.nodeCnt.val, hfree⟩ s, ?_, hab, rfl,
    exec_tbMin_of_minNode ha, exec_tbMin_of_minNode hb, nodeAt_joinNodes_new _ _ _ _,
    fun i hi => nodeAt_joinNodes_old _ _ _ hi, fun i => alive_joinNodes _ _ _ _ _, rfl, joinNodes_frame _ _ _ _⟩
  rw [exec_tbMerge, mergeTwo_eq_join ha hb hfree]
  rfl

end Sys2Proof.Proofs
end

section
/-! TB.BUILD as merges in a forest (R153): the alive nodes with the trees below them form a forest, each TB.MERGE
joins its two least members, and the loop ends with one tree. -/

namespace Sys2Proof.Proofs

open Sys2Proof.Machine Sys2Proof.Laws

/-! ### Trees in the node memory -/

theorem treeAt_lt {s : State} {d : Nat} {i : NodeIx} {T : SymbolTree} (h : treeAt s d i = some T) :
    i.val < s.nodeCnt.val := by
  by_contra hge
  unfold treeAt at h
  rw [if_neg hge] at h
  cases h

theorem treeAt_of_leaf {s : State} {i : NodeIx} (d : Nat) (hlt : i.val < s.nodeCnt.val)
    (hkind : (nodeAt s i).kind = .leaf) :
    treeAt s d i = some (.leaf (nodeAt s i).value (nodeAt s i).weight) := by
  unfold treeAt
  rw [if_pos hlt]
  simp only [hkind]

theorem treeAt_of_internal {s : State} {i : NodeIx} {d : Nat} {l r : SymbolTree} (hlt : i.val < s.nodeCnt.val)
    (hkind : (nodeAt s i).kind = .internal) (hl : treeAt s d (nodeAt s i).left = some l)
    (hr : treeAt s d (nodeAt s i).right = some r) :
    treeAt s (d + 1) i = some (.internal (nodeAt s i).weight l r) := by
  unfold treeAt
  rw [if_pos hlt]
  simp only [hkind, hl, hr]

/-- The tree of an index has the weight of its node (R28). -/
theorem treeAt_weight {s : State} {d : Nat} {i : NodeIx} {T : SymbolTree} (h : treeAt s d i = some T) :
    (nodeAt s i).weight = T.weight := by
  have hlt := treeAt_lt h
  unfold treeAt at h
  rw [if_pos hlt] at h
  split at h
  next => cases h; rfl
  next =>
    split at h
    · cases h
    · split at h <;> cases h
      rfl

/-- A tree stays when nodes are added above it, and is read at every depth from its height on (R27, R28). -/
theorem treeAt_extend {s t : State} (hcnt : s.nodeCnt.val ≤ t.nodeCnt.val)
    (hnode : ∀ i : NodeIx, i.val < s.nodeCnt.val → nodeAt t i = nodeAt s i)
    {T : SymbolTree} {d e : Nat} {i : NodeIx} (h : treeAt s d i = some T) (he : T.height ≤ e) : treeAt t e i = some T := by
  induction T generalizing d e i with
  | leaf v w =>
    have hlt := treeAt_lt h
    obtain ⟨hkind, rfl⟩ := treeAt_eq_leaf h
    rw [treeAt_of_leaf e (hlt.trans_le hcnt) (by rw [hnode i hlt, hkind]), hnode i hlt, treeAt_weight h]
    rfl
  | internal w l r ihl ihr =>
    have hlt := treeAt_lt h
    obtain ⟨hkind, d', hchild⟩ := treeAt_eq_internal h
    obtain ⟨hl, hr⟩ := Bool.forall_bool.mp hchild
    obtain ⟨e, rfl⟩ := Nat.exists_eq_succ_of_ne_zero (Nat.ne_zero_of_lt he)
    obtain ⟨hle, hre⟩ : l.height ≤ e ∧ r.height ≤ e := max_le_iff.mp (Nat.le_of_succ_le_succ he)
    rw [treeAt_of_internal (hlt.trans_le hcnt) (by rw [hnode i hlt, hkind]) (by rw [hnode i hlt]; exact ihl hl hle)
      (by rw [hnode i hlt]; exact ihr hr hre), hnode i hlt, treeAt_weight h]
    rfl

/-! ### Sizes of a tree (R12, R156) -/

theorem leaves_eq_internals_succ (T : SymbolTree) : T.leaves = T.internals + 1 := by
  induction T with
  | leaf v w => rfl
  | internal w l r ihl ihr => rw [SymbolTree.leaves, SymbolTree.internals, ihl, ihr]; omega

theorem length_values (T : SymbolTree) : T.values.length = T.leaves := by
  induction T with
  | leaf v w => rfl
  | internal w l r ihl ihr => rw [SymbolTree.values, List.length_append, ihl, ihr, SymbolTree.leaves]

theorem height_le_internals (T : SymbolTree) : T.height ≤ T.internals := by
  induction T with
  | leaf v w => exact le_rfl
  | internal w l r ihl ihr => rw [SymbolTree.height, SymbolTree.internals]; omega

/-! ### Forests -/

/-- Trees with the indices of their root nodes: the priority collection (R29) with what stands below it. -/
abbrev Forest := Multiset (NodeIx × SymbolTree)

/-- The order of the selection (R151): least weight first, and at equal weight the least index. -/
def Before (p q : NodeIx × SymbolTree) : Prop :=
  p.2.weight < q.2.weight ∨ p.2.weight = q.2.weight ∧ p.1 < q.1

/-- The tree that a merge puts at index `n`, its weight cut to `w` bits (R152). -/
def joinTrees (w : Nat) (n : NodeIx) (p q : NodeIx × SymbolTree) : NodeIx × SymbolTree :=
  (n, .internal ((p.2.weight + q.2.weight) % 2 ^ w) p.2 q.2)

/-- One merge of a forest: its two least members under a node with an index above all (R152). -/
inductive MergeStep (w : Nat) : Forest → Forest → Prop
  | join {n : NodeIx} {p q : NodeIx × SymbolTree} {R : Forest} (hpq : Before p q) (hR : ∀ r ∈ R, Before q r)
      (hn : ∀ r ∈ p ::ₘ q ::ₘ R, r.1 < n) : MergeStep w (p ::ₘ q ::ₘ R) (joinTrees w n p q ::ₘ R)

/-- Any number of merges (R153). -/
abbrev Merges (w : Nat) : Forest → Forest → Prop := Relation.ReflTransGen (MergeStep w)

/-- The leaf values of all trees of a forest. -/
def forestValues (F : Forest) : Multiset Sym := F.bind fun p => (p.2.values : Multiset Sym)

theorem forestValues_joinTrees (w : Nat) (n : NodeIx) (p q : NodeIx × SymbolTree) (R : Forest) :
    forestValues (joinTrees w n p q ::ₘ R) = forestValues (p ::ₘ q ::ₘ R) := by
  simp only [forestValues, Multiset.cons_bind, joinTrees, SymbolTree.values, ← Multiset.coe_add, add_assoc]

/-- Merging keeps the leaf values (R158). -/
theorem forestValues_of_merges {w : Nat} {F G : Forest} (h : Merges w F G) : forestValues G = forestValues F := by
  induction h with
  | refl => rfl
  | tail _ hstep ih =>
    obtain ⟨_, _, _⟩ := hstep
    rw [forestValues_joinTrees, ih]

/-! ### The forest in the machine -/

theorem eq_aliveNodes_iff {s : State} {M : Multiset NodeIx} : M = (aliveNodes s : Multiset NodeIx) ↔
    M.Nodup ∧ ∀ i, i ∈ M ↔ i.val < s.nodeCnt.val ∧ s.alive.get i = true := by
  have hnodup : (aliveNodes s : Multiset NodeIx).Nodup := Multiset.coe_nodup.mpr (aliveNodes_nodup s)
  constructor
  · rintro rfl
    exact ⟨hnodup, fun i => Multiset.mem_coe.trans mem_aliveNodes⟩
  · rintro ⟨hM, hmem⟩
    exact (hM.ext hnodup).mpr fun i => (hmem i).trans (Multiset.mem_coe.trans mem_aliveNodes).symm

/-- Taking `a` out of the priority collection takes it out of its members (R152). -/
theorem eq_aliveNodes_of_remove {s : State} {a : NodeIx} {M : Multiset NodeIx}
    (h : a ::ₘ M = (aliveNodes s : Multiset NodeIx)) : M = (aliveNodes (setAlive a false s) : Multiset NodeIx) := by
  obtain ⟨hnodup, hmem⟩ := eq_aliveNodes_iff.mp h
  obtain ⟨ha, hM⟩ := Multiset.nodup_cons.mp hnodup
  refine eq_aliveNodes_iff.mpr ⟨hM, fun i => ?_⟩
  rw [alive_setAlive, setAlive_nodeCnt]
  rcases eq_or_ne i a with rfl | hne
  · simp [ha]
  · simpa [hne] using hmem i

/-- What is alive after a merge: the new node, and what the two selections left (R152). -/
theorem cons_eq_aliveNodes_join {s : State} {a b n : NodeIx} {M : Multiset NodeIx} (hn : n.val = s.nodeCnt.val)
    (h : M = (aliveNodes (setAlive b false (setAlive a false s)) : Multiset NodeIx)) :
    n ::ₘ M = (aliveNodes (joinNodes a b n s) : Multiset NodeIx) := by
  obtain ⟨hM, hmem⟩ := eq_aliveNodes_iff.mp h
  have hnew : n ∉ M := fun hin => ((hmem n).mp hin).1.ne hn
  refine eq_aliveNodes_iff.mpr ⟨Multiset.nodup_cons.mpr ⟨hnew, hM⟩, fun i => ?_⟩
  rw [Multiset.mem_cons, hmem, joinNodes_nodeCnt]
  rcases eq_or_ne i n with rfl | hne
  · simp
  · have hval : i.val ≠ n.val := fun e => hne (Fin.ext e)
    have hlt : i.val < n.val + 1 ↔ i.val < s.nodeCnt.val := by omega
    rw [alive_joinNodes_old _ _ _ hne, or_iff_right hne, hlt, setAlive_nodeCnt, setAlive_nodeCnt]

/-- The least member of a forest: the selection finds its root, and the others come after it (R151). -/
theorem exists_least {s : State} {F : Forest} {a : NodeIx}
    (hroots : F.map Prod.fst = (aliveNodes s : Multiset NodeIx))
    (hweight : ∀ r ∈ F, (nodeAt s r.1).weight = r.2.weight) (ha : minNode s = some a) :
    ∃ p R, p.1 = a ∧ F = p ::ₘ R ∧ (∀ r ∈ R, Before p r) ∧
      R.map Prod.fst = (aliveNodes (setAlive a false s) : Multiset NodeIx) := by
  have hmem : a ∈ F.map Prod.fst := by
    rw [hroots]
    exact Multiset.mem_coe.mpr (mem_aliveNodes.mpr (minNode_alive ha))
  obtain ⟨p, hp, rfl⟩ := Multiset.mem_map.mp hmem
  obtain ⟨R, rfl⟩ := Multiset.exists_cons_of_mem hp
  rw [Multiset.map_cons] at hroots
  refine ⟨p, R, rfl, rfl, fun r hr => ?_, eq_aliveNodes_of_remove hroots⟩
  have hr' := Multiset.mem_map_of_mem Prod.fst hr
  have hne : p.1 ≠ r.1 := fun e =>
    (Multiset.nodup_cons.mp (eq_aliveNodes_iff.mp hroots).1).1 (e ▸ hr')
  have halive : r.1 ∈ aliveNodes s := by
    rw [← Multiset.mem_coe, ← hroots]
    exact Multiset.mem_cons_of_mem hr'
  have hleast := minNode_least ha halive
  rw [hweight p hp, hweight r (Multiset.mem_cons_of_mem hr)] at hleast
  exact hleast.imp_right fun ⟨heq, hle⟩ => ⟨heq, lt_of_le_of_ne hle hne⟩

/-- `v` is a state of TB.BUILD from `s`, and its alive nodes are the roots of the forest `F` (R153, R156, R158). -/
structure Building (s v : State) (F : Forest) : Prop where
  frame : v = { s with node := v.node, alive := v.alive, nodeCnt := v.nodeCnt }
  roots : F.map Prod.fst = (aliveNodes v : Multiset NodeIx)
  trees : ∀ p ∈ F, treeAt v p.2.height p.1 = some p.2
  leaves : ∀ i : NodeIx, i.val < v.nodeCnt.val → (nodeAt v i).kind = .leaf →
    (nodeAt v i).weight = s.freq.get (nodeAt v i).value
  account : v.nodeCnt.val + F.card = 2 * (usedSyms s).length
  last : ∃ p ∈ F, p.1.val + 1 = v.nodeCnt.val

theorem Building.length_aliveNodes {s v : State} {F : Forest} (h : Building s v F) :
    (aliveNodes v).length = F.card := by
  rw [← Multiset.coe_card, ← h.roots, Multiset.card_map]

/-! ### TB.INIT starts the forest -/

/-- Each alive node as a leaf. -/
def leafForest (v : State) : Forest :=
  (aliveNodes v : Multiset NodeIx).map fun i => (i, .leaf (nodeAt v i).value (nodeAt v i).weight)

theorem mem_aliveNodes_initLeaves {s : State} {i : NodeIx} :
    i ∈ aliveNodes (initLeaves s) ↔ i.val < (usedSyms s).length := by
  rw [mem_aliveNodes, initLeaves_nodeCnt, alive_initLeaves]
  simp +contextual

theorem nodeAt_initLeaves {s : State} {i : NodeIx} (h : i.val < (usedSyms s).length) :
    nodeAt (initLeaves s) i = countLeaf s (usedSyms s)[i.val] :=
  nodeAt_initLeaves_of_used (List.getElem?_eq_getElem h)

theorem usedSyms_nodup (s : State) : (usedSyms s).Nodup :=
  ((List.pairwise_lt_finRange 257).filter _).imp ne_of_lt

theorem mem_usedSyms {s : State} {y : Sym} : y ∈ usedSyms s ↔ 0 < s.freq.get y := by
  simp [usedSyms]

/-- The leaves TB.INIT makes hold the used symbols, each once (R150). -/
theorem values_initLeaves_perm (s : State) :
    ((aliveNodes (initLeaves s)).map fun i => (nodeAt (initLeaves s) i).value).Perm (usedSyms s) := by
  have hvalue (i : NodeIx) (h : i ∈ aliveNodes (initLeaves s)) :
      (nodeAt (initLeaves s) i).value = (usedSyms s)[i.val]'(mem_aliveNodes_initLeaves.mp h) := by
    rw [nodeAt_initLeaves (mem_aliveNodes_initLeaves.mp h)]
    rfl
  have hnodup := (aliveNodes_nodup (initLeaves s)).map_on (f := fun i => (nodeAt (initLeaves s) i).value)
    fun i hi j hj heq => by
      rw [hvalue i hi, hvalue j hj] at heq
      exact Fin.ext ((usedSyms_nodup s).getElem_inj_iff.mp heq)
  refine (List.perm_ext_iff_of_nodup hnodup (usedSyms_nodup s)).mpr fun y => ?_
  rw [List.mem_map]
  constructor
  · rintro ⟨i, hi, rfl⟩
    rw [hvalue i hi]
    exact List.getElem_mem _
  · intro hy
    obtain ⟨k, hk, rfl⟩ := List.getElem_of_mem hy
    have hi : (⟨k, by have := usedSyms_length_le s; omega⟩ : NodeIx) ∈ aliveNodes (initLeaves s) :=
      mem_aliveNodes_initLeaves.mpr hk
    exact ⟨_, hi, hvalue _ hi⟩

theorem forestValues_leafForest (s : State) :
    forestValues (leafForest (initLeaves s)) = (usedSyms s : Multiset Sym) := by
  rw [← Multiset.coe_eq_coe.mpr (values_initLeaves_perm s), forestValues, leafForest, Multiset.bind_map]
  exact Multiset.bind_singleton _ _

theorem building_initLeaves {s : State} (h : usedSyms s ≠ []) :
    Building s (initLeaves s) (leafForest (initLeaves s)) where
  frame := initLeaves_frame s
  roots := by rw [leafForest, Multiset.map_map]; exact Multiset.map_id _
  trees p hp := by
    obtain ⟨i, hi, rfl⟩ := Multiset.mem_map.mp hp
    have hlt := mem_aliveNodes_initLeaves.mp (Multiset.mem_coe.mp hi)
    exact treeAt_of_leaf _ hlt (by rw [nodeAt_initLeaves hlt]; rfl)
  leaves i hi _ := by rw [nodeAt_initLeaves hi]; rfl
  account := by
    have hlen := (values_initLeaves_perm s).length_eq
    rw [List.length_map] at hlen
    rw [leafForest, Multiset.card_map, Multiset.coe_card, hlen, initLeaves_nodeCnt]
    omega
  last := by
    have hpos := List.length_pos_iff.mpr h
    have hle := usedSyms_length_le s
    let i : NodeIx := ⟨(usedSyms s).length - 1, by omega⟩
    have hi : i ∈ aliveNodes (initLeaves s) := mem_aliveNodes_initLeaves.mpr (Nat.sub_one_lt hpos.ne')
    exact ⟨_, Multiset.mem_map_of_mem _ (Multiset.mem_coe.mpr hi), Nat.sub_add_cancel hpos⟩

/-! ### TB.MERGE merges the forest -/

/-- A merge leaves the entries below the new node as they are (R152). -/
theorem nodeAt_joinNodes_below {s : State} {n i : NodeIx} (a b : NodeIx) (hn : n.val = s.nodeCnt.val)
    (hi : i.val < s.nodeCnt.val) : nodeAt (joinNodes a b n s) i = nodeAt s i :=
  nodeAt_joinNodes_old a b s fun e => hi.ne (e ▸ hn)

theorem treeAt_joinNodes_below {s : State} {n i : NodeIx} {T : SymbolTree} {d e : Nat} (a b : NodeIx)
    (hn : n.val = s.nodeCnt.val) (h : treeAt s d i = some T) (he : T.height ≤ e) :
    treeAt (joinNodes a b n s) e i = some T :=
  treeAt_extend (by rw [joinNodes_nodeCnt]; omega) (fun _ hi => nodeAt_joinNodes_below a b hn hi) h he

/-- The tree at the new node is the two trees joined (R28, R152). -/
theorem treeAt_joinNodes_new {s : State} {n : NodeIx} {p q : NodeIx × SymbolTree} (hn : n.val = s.nodeCnt.val)
    (hp : treeAt s p.2.height p.1 = some p.2) (hq : treeAt s q.2.height q.1 = some q.2) :
    treeAt (joinNodes p.1 q.1 n s) (joinTrees s.par.w n p q).2.height n = some (joinTrees s.par.w n p q).2 := by
  have hnew : nodeAt (joinNodes p.1 q.1 n s) n = parentNode p.1 q.1 s := nodeAt_joinNodes_new _ _ _ _
  have htree := treeAt_of_internal (s := joinNodes p.1 q.1 n s) (Nat.lt_succ_self n.val) (by rw [hnew]; rfl)
    (by rw [hnew]; exact treeAt_joinNodes_below _ _ hn hp (le_max_left _ q.2.height))
    (by rw [hnew]; exact treeAt_joinNodes_below _ _ hn hq (le_max_right p.2.height _))
  rwa [hnew, parentNode, addW, treeAt_weight hp, treeAt_weight hq] at htree

/-- Joining the two members selected leaves a forest of TB.BUILD (R152, R153). -/
theorem Building.join {s v : State} {n : NodeIx} {p q : NodeIx × SymbolTree} {R : Forest}
    (h : Building s v (p ::ₘ q ::ₘ R)) (hn : n.val = v.nodeCnt.val)
    (hR : R.map Prod.fst = (aliveNodes (setAlive q.1 false (setAlive p.1 false v)) : Multiset NodeIx)) :
    Building s (joinNodes p.1 q.1 n v) (joinTrees s.par.w n p q ::ₘ R) where
  frame := congrArg (fun u : State => { u with
    node := (joinNodes p.1 q.1 n v).node, alive := (joinNodes p.1 q.1 n v).alive,
    nodeCnt := (joinNodes p.1 q.1 n v).nodeCnt }) h.frame
  roots := by
    rw [Multiset.map_cons]
    exact cons_eq_aliveNodes_join hn hR
  trees := by
    have hpar : v.par = s.par := by rw [h.frame]
    obtain ⟨hp, hrest⟩ := Multiset.forall_mem_cons.mp h.trees
    obtain ⟨hq, hrest⟩ := Multiset.forall_mem_cons.mp hrest
    rw [← hpar]
    exact Multiset.forall_mem_cons.mpr
      ⟨treeAt_joinNodes_new hn hp hq, fun r hr => treeAt_joinNodes_below _ _ hn (hrest r hr) le_rfl⟩
  leaves i hi hkind := by
    rw [joinNodes_nodeCnt] at hi
    rcases eq_or_ne i n with rfl | hne
    · rw [nodeAt_joinNodes_new] at hkind
      cases hkind
    · have hlt : i.val < v.nodeCnt.val := by
        have hval : i.val ≠ n.val := fun e => hne (Fin.ext e)
        omega
      rw [nodeAt_joinNodes_below _ _ hn hlt] at hkind ⊢
      exact h.leaves i hlt hkind
  account := by
    have haccount := h.account
    rw [Multiset.card_cons, Multiset.card_cons] at haccount
    rw [Multiset.card_cons, joinNodes_nodeCnt]
    omega
  last := ⟨_, Multiset.mem_cons_self _ _, rfl⟩

theorem Building.two_alive {s v : State} {F : Forest} (h : Building s v F) (hcard : 1 < F.card) :
    ∃ i ∈ aliveNodes v, ∃ j ∈ aliveNodes v, i ≠ j := by
  rw [← h.length_aliveNodes] at hcard
  refine ⟨_, List.getElem_mem (Nat.zero_lt_of_lt hcard), _, List.getElem_mem hcard, fun e => ?_⟩
  exact Nat.zero_ne_one ((aliveNodes_nodup v).getElem_inj_iff.mp e)

/-- With two members or more, TB.MERGE takes one merge of the forest (R152). -/
theorem Building.merge {s v : State} {F : Forest} (h : Building s v F) (hcard : 1 < F.card) :
    ∃ n t G, mergeTwo v = .ok n t ∧ Building s t G ∧ MergeStep s.par.w F G ∧ G.card + 1 = F.card := by
  obtain ⟨i, hi, j, hj, hij⟩ := h.two_alive hcard
  obtain ⟨a, b, ha, hb, -⟩ := two_selections hij hi hj
  have hfree : v.nodeCnt.val < 513 := by
    have hle := usedSyms_length_le s
    have haccount := h.account
    omega
  have hweight (r) (hr : r ∈ F) : (nodeAt v r.1).weight = r.2.weight := treeAt_weight (h.trees r hr)
  obtain ⟨p, F₁, rfl, rfl, hp, hroots⟩ := exists_least h.roots hweight ha
  obtain ⟨q, R, rfl, rfl, hq, hroots'⟩ := exists_least hroots (fun r hr => hweight r (Multiset.mem_cons_of_mem hr)) hb
  exact ⟨⟨v.nodeCnt.val, hfree⟩, _, _, mergeTwo_eq_join ha hb hfree, h.join rfl hroots',
    .join (hp q (Multiset.mem_cons_self _ _)) hq fun r hr => treeAt_lt (h.trees r hr), by simp⟩

/-! ### TB.BUILD ends with one tree -/

/-- The loop of TB.BUILD merges the forest down to one tree (R153, R156). -/
theorem Building.merges_to_one {s v : State} {F : Forest} {k : Nat} (h : Building s v F) (hk : F.card ≤ k) :
    ∃ t p, mergeLoop k v = .ok () t ∧ Building s t {p} ∧ Merges s.par.w F {p} := by
  induction k generalizing v F with
  | zero =>
    obtain ⟨p, hp, -⟩ := h.last
    exact absurd (Multiset.card_pos_iff_exists_mem.mpr ⟨p, hp⟩) (Nat.not_lt.mpr hk)
  | succ k ih =>
    rw [mergeLoop, h.length_aliveNodes]
    by_cases hcard : 1 < F.card
    · obtain ⟨n, t, G, hmerge, hbuild, hstep, hlen⟩ := h.merge hcard
      obtain ⟨u, p, hloop, hend, hmerges⟩ := ih hbuild (by omega)
      rw [if_pos hcard, hmerge, bind_ok]
      exact ⟨u, p, hloop, hend, .head hstep hmerges⟩
    · obtain ⟨p, hp, -⟩ := h.last
      have hpos := Multiset.card_pos_iff_exists_mem.mpr ⟨p, hp⟩
      obtain ⟨p, rfl⟩ := Multiset.card_eq_one.mp (show F.card = 1 by omega)
      exact ⟨v, p, if_neg hcard, h, .refl⟩

theorem exec_tbBuild (s : State) : exec .tbBuild s = (buildTree s).toOutcome fun _ t => t := rfl

theorem leafForest_card (s : State) : (leafForest (initLeaves s)).card = (usedSyms s).length := by
  have hlen := (values_initLeaves_perm s).length_eq
  rwa [List.length_map, ← Multiset.coe_card, ← Multiset.card_map] at hlen

/-- TB.BUILD merges the leaves of the used symbols down to one tree, with its root at ROOT (R153). -/
theorem exec_tbBuild_merges {s : State} (h : 0 < s.freq.get pseudoEof) :
    ∃ v p, exec .tbBuild s = .next { v with root := p.1 } ∧ Building s v {p} ∧
      Merges s.par.w (leafForest (initLeaves s)) {p} := by
  have hne : usedSyms s ≠ [] := List.ne_nil_of_mem (mem_usedSyms.mpr h)
  obtain ⟨v, p, hloop, hbuild, hmerges⟩ :=
    (building_initLeaves hne).merges_to_one ((leafForest_card s).trans_le (Nat.le_succ _))
  have halive : aliveNodes v = [p.1] := by
    have hroots := hbuild.roots
    rwa [Multiset.map_singleton, ← Multiset.coe_singleton, eq_comm, Multiset.coe_eq_coe,
      List.perm_singleton] at hroots
  refine ⟨v, p, ?_, hbuild, hmerges⟩
  rw [exec_tbBuild, buildTree, hloop, bind_ok, halive]
  rfl

/-- The leaf values of the tree TB.BUILD makes are the used symbols, each once (R158). -/
theorem values_perm_of_merges {s : State} {p : NodeIx × SymbolTree}
    (h : Merges s.par.w (leafForest (initLeaves s)) {p}) : p.2.values.Perm (usedSyms s) := by
  have hvalues := forestValues_of_merges h
  rw [forestValues_leafForest, forestValues, Multiset.singleton_bind] at hvalues
  exact Multiset.coe_eq_coe.mp hvalues

/-- The tree TB.BUILD makes is the tree at ROOT (R28, R153). -/
theorem Building.tree_eq {s v : State} {p : NodeIx × SymbolTree} (h : Building s v {p})
    (hheight : p.2.height ≤ maxDepth) : State.tree { v with root := p.1 } = some p.2 :=
  (treeAt_congr (s := v) (t := { v with root := p.1 }) rfl rfl _ _).trans
    (treeAt_extend le_rfl (fun _ _ => rfl) (h.trees p (Multiset.mem_singleton_self p)) hheight)

theorem leaves_le_of_merges {s : State} {p : NodeIx × SymbolTree}
    (h : Merges s.par.w (leafForest (initLeaves s)) {p}) : p.2.leaves ≤ 257 := by
  rw [← length_values, (values_perm_of_merges h).length_eq]
  exact usedSyms_length_le s

/-- The depth of a built tree is at most 256 (R156). -/
theorem height_le_of_merges {s : State} {p : NodeIx × SymbolTree}
    (h : Merges s.par.w (leafForest (initLeaves s)) {p}) : p.2.height ≤ maxDepth := by
  have hleaves := leaves_le_of_merges h
  rw [leaves_eq_internals_succ] at hleaves
  exact (height_le_internals p.2).trans (Nat.le_of_succ_le_succ hleaves)

/-- Settles O34: the loop keeps the leaf values of the forest and the account of its nodes. -/
theorem buildMakesAValidTree : Obligations.BuildMakesAValidTree := by
  intro s hs
  obtain ⟨v, p, hexec, hbuild, hmerges⟩ := exec_tbBuild_merges hs
  have hperm := values_perm_of_merges hmerges
  have hleaves := leaves_le_of_merges hmerges
  have hinternals : p.2.internals ≤ 256 := by rw [leaves_eq_internals_succ] at hleaves; omega
  have hheight := height_le_of_merges hmerges
  have hmem (y : Sym) : y ∈ p.2.values ↔ 0 < s.freq.get y := hperm.mem_iff.trans mem_usedSyms
  refine ⟨_, p.2, hexec, hbuild.tree_eq hheight, ⟨hperm.nodup_iff.mpr (usedSyms_nodup s), (hmem _).mpr hs⟩, hmem,
    hbuild.account, ?_, hbuild.leaves, hleaves, hinternals, hheight,
    congrArg (fun u : State => { u with root := p.1 }) hbuild.frame⟩
  obtain ⟨q, hq, hlast⟩ := hbuild.last
  obtain rfl := Multiset.mem_singleton.mp hq
  exact hlast

end Sys2Proof.Proofs
end

section
/-! Weights and depths in the forest of TB.BUILD: no sum wraps (R155), and the merges keep more frequent symbols at
depths no greater (R157). -/

namespace Sys2Proof.Proofs

open Sys2Proof.Machine Sys2Proof.Laws

/-! ### Weights (R155) -/

/-- The weights of all trees of a forest added up. -/
def forestWeight (F : Forest) : Nat := (F.map fun p => p.2.weight).sum

@[simp] theorem forestWeight_cons (p : NodeIx × SymbolTree) (F : Forest) :
    forestWeight (p ::ₘ F) = p.2.weight + forestWeight F := by
  simp [forestWeight]

@[simp] theorem forestWeight_singleton (p : NodeIx × SymbolTree) : forestWeight {p} = p.2.weight := by
  simp [forestWeight]

/-- The weight of a merged node is not cut where the forest's weight fits in `w` bits (R155). -/
theorem joinTrees_weight {w : Nat} {n : NodeIx} {p q : NodeIx × SymbolTree} {R : Forest}
    (hfit : forestWeight (p ::ₘ q ::ₘ R) < 2 ^ w) : (joinTrees w n p q).2.weight = p.2.weight + q.2.weight := by
  rw [forestWeight_cons, forestWeight_cons] at hfit
  exact Nat.mod_eq_of_lt (by omega)

theorem forestWeight_of_step {w : Nat} {F G : Forest} (h : MergeStep w F G) (hfit : forestWeight F < 2 ^ w) :
    forestWeight G = forestWeight F := by
  obtain ⟨_, _, _⟩ := h
  rw [forestWeight_cons, joinTrees_weight hfit, forestWeight_cons, forestWeight_cons, add_assoc]

theorem weightsAdd_of_step {w : Nat} {F G : Forest} (h : MergeStep w F G) (hfit : forestWeight F < 2 ^ w)
    (hF : ∀ p ∈ F, p.2.weightsAdd) : ∀ p ∈ G, p.2.weightsAdd := by
  obtain @⟨n, p, q, R, -, -, -⟩ := h
  obtain ⟨hp, hq, hR⟩ := (Multiset.forall_mem_cons.trans (and_congr_right' Multiset.forall_mem_cons)).mp hF
  exact Multiset.forall_mem_cons.mpr ⟨⟨joinTrees_weight (n := n) hfit, hp, hq⟩, hR⟩

/-- A property that every merge of a forest that fits in `w` bits keeps holds after any number of merges. -/
theorem Merges.induction {w : Nat} {F G : Forest} {P : Forest → Prop} (h : Merges w F G)
    (hfit : forestWeight F < 2 ^ w) (hstart : P F)
    (hstep : ∀ {H K : Forest}, MergeStep w H K → forestWeight H < 2 ^ w → P H → P K) :
    P G ∧ forestWeight G = forestWeight F := by
  induction h with
  | refl => exact ⟨hstart, rfl⟩
  | tail _ hlast ih =>
    obtain ⟨hP, hweight⟩ := ih
    rw [← hweight] at hfit ⊢
    exact ⟨hstep hlast hfit hP, forestWeight_of_step hlast hfit⟩

theorem mem_leafForest {s : State} {p : NodeIx × SymbolTree} (h : p ∈ leafForest (initLeaves s)) :
    ∃ y, p.2 = .leaf y (s.freq.get y) := by
  obtain ⟨i, hi, rfl⟩ := Multiset.mem_map.mp h
  rw [nodeAt_initLeaves (mem_aliveNodes_initLeaves.mp (Multiset.mem_coe.mp hi))]
  exact ⟨_, rfl⟩

theorem map_weight_leafForest (s : State) :
    (leafForest (initLeaves s)).map (fun p => p.2.weight) = ((usedSyms s).map s.freq.get : Multiset Nat) := by
  rw [← Multiset.coe_eq_coe.mpr ((values_initLeaves_perm s).map s.freq.get), leafForest, Multiset.map_map,
    List.map_map, ← Multiset.map_coe]
  refine Multiset.map_congr rfl fun i hi => ?_
  have hat := nodeAt_initLeaves (mem_aliveNodes_initLeaves.mp (Multiset.mem_coe.mp hi))
  simp [hat, SymbolTree.weight, countLeaf]

/-- A symbol that is not used adds nothing to the counts (R150). -/
theorem sum_map_usedSyms (s : State) : ((usedSyms s).map s.freq.get).sum = countSum s := by
  have hsplit := List.sum_map_filter_add_sum_map_filter_not (fun y => 0 < s.freq.get y) s.freq.get (List.finRange 257)
  have hunused : (((List.finRange 257).filter fun y => ¬ 0 < s.freq.get y).map s.freq.get).sum = 0 := by
    refine List.sum_eq_zero fun c hc => ?_
    obtain ⟨y, hy, rfl⟩ := List.mem_map.mp hc
    simpa using hy
  rwa [hunused, Nat.add_zero] at hsplit

/-- The leaves weigh the sum of all counts (R150, R155). -/
theorem forestWeight_leafForest (s : State) : forestWeight (leafForest (initLeaves s)) = countSum s := by
  rw [forestWeight, map_weight_leafForest, Multiset.sum_coe, sum_map_usedSyms]

/-! ### Depths (R157) -/

theorem Before.weight_le {p q : NodeIx × SymbolTree} (h : Before p q) : p.2.weight ≤ q.2.weight :=
  h.elim Nat.le_of_lt fun h => h.1.le

theorem Before.irrefl (p : NodeIx × SymbolTree) : ¬ Before p p :=
  fun h => h.elim (lt_irrefl _) fun h => lt_irrefl _ h.2

theorem Before.trans {p q r : NodeIx × SymbolTree} (h : Before p q) (k : Before q r) : Before p r := by
  rcases h with h | ⟨h, h'⟩ <;> rcases k with k | ⟨k, k'⟩
  · exact .inl (h.trans k)
  · exact .inl (h.trans_eq k)
  · exact .inl (h.trans_lt k)
  · exact .inr ⟨h.trans k, h'.trans k'⟩

/-- A more frequent symbol in `p` is less deep than a less frequent one in `q`, or as deep while `q` is no later in
the order of the selection, so that `q` is merged no later. -/
def DepthsAgree (f : Sym → Nat) (p q : NodeIx × SymbolTree) : Prop :=
  ∀ {x y : Sym} {c d : BitString}, p.2.code x = some c → q.2.code y = some d → f y < f x →
    c.length < d.length ∨ c.length = d.length ∧ (q = p ∨ Before q p)

/-- What merges keep (R157): depths agree with counts, and an Internal node weighs at most twice any alive node,
since its children were the least when it was made. -/
structure Balanced (f : Sym → Nat) (F : Forest) : Prop where
  depths : ∀ p ∈ F, ∀ q ∈ F, DepthsAgree f p q
  inner : ∀ p ∈ F, ∀ q ∈ F, 0 < p.2.height → p.2.weight ≤ 2 * q.2.weight

/-- A code in a merged tree is one edge and a code in one of the two trees (R166). -/
theorem code_joinTrees {w : Nat} {n : NodeIx} {p q : NodeIx × SymbolTree} {y : Sym} {c : BitString}
    (h : (joinTrees w n p q).2.code y = some c) :
    ∃ r, (r = p ∨ r = q) ∧ ∃ d, r.2.code y = some d ∧ c.length = d.length + 1 := by
  obtain ⟨b, d, rfl, hd⟩ := code_internal h
  cases b with
  | false => exact ⟨p, .inl rfl, d, hd, rfl⟩
  | true => exact ⟨q, .inr rfl, d, hd, rfl⟩

theorem height_pos_of_code {T : SymbolTree} {y : Sym} {c : BitString} (h : T.code y = some c) (hc : 0 < c.length) :
    0 < T.height := by
  cases T with
  | leaf v w =>
    rw [SymbolTree.code] at h
    split at h <;> cases h
    exact absurd hc (lt_irrefl 0)
  | internal w l r => exact Nat.succ_pos _

section Step

variable {f : Sym → Nat} {w : Nat} {n : NodeIx} {p q : NodeIx × SymbolTree} {R : Forest}
  (hbal : Balanced f (p ::ₘ q ::ₘ R)) (hfit : forestWeight (p ::ₘ q ::ₘ R) < 2 ^ w)
  (hpq : Before p q) (hR : ∀ r ∈ R, Before q r) (hn : ∀ r ∈ p ::ₘ q ::ₘ R, r.1 < n)

include hpq hR in
theorem before_rest {m r : NodeIx × SymbolTree} (hm : m = p ∨ m = q) (hr : r ∈ R) : Before m r := by
  rcases hm with rfl | rfl
  · exact hpq.trans (hR r hr)
  · exact hR r hr

theorem mem_of_merged {m : NodeIx × SymbolTree} (hm : m = p ∨ m = q) : m ∈ p ::ₘ q ::ₘ R := by
  rcases hm with rfl | rfl <;> simp

theorem mem_of_rest {r : NodeIx × SymbolTree} (hr : r ∈ R) : r ∈ p ::ₘ q ::ₘ R :=
  Multiset.mem_cons_of_mem (Multiset.mem_cons_of_mem hr)

include hbal hfit hpq hn in
/-- An Internal node that stays goes before the one just made (R151). -/
theorem inner_before_join {r : NodeIx × SymbolTree} (hr : r ∈ R) (hinner : 0 < r.2.height) :
    Before r (joinTrees w n p q) := by
  have hle : r.2.weight ≤ (joinTrees w n p q).2.weight := by
    have htwice := hbal.inner r (mem_of_rest hr) p (mem_of_merged (.inl rfl)) hinner
    have hwpq := hpq.weight_le
    rw [joinTrees_weight hfit]
    omega
  exact hle.lt_or_eq.imp_right fun heq => ⟨heq, hn r (mem_of_rest hr)⟩

include hbal in
theorem depthsAgree_join_join : DepthsAgree f (joinTrees w n p q) (joinTrees w n p q) := by
  intro x y c d hc hd hxy
  obtain ⟨m, hm, c', hc', hclen⟩ := code_joinTrees hc
  obtain ⟨m', hm', d', hd', hdlen⟩ := code_joinTrees hd
  rcases hbal.depths m (mem_of_merged hm) m' (mem_of_merged hm') hc' hd' hxy with hlt | ⟨heq, -⟩
  · exact .inl (by omega)
  · exact .inr ⟨by omega, .inl rfl⟩

include hbal in
theorem depthsAgree_rest_join {r : NodeIx × SymbolTree} (hr : r ∈ R) : DepthsAgree f r (joinTrees w n p q) := by
  intro x y c d hc hd hxy
  obtain ⟨m, hm, d', hd', hdlen⟩ := code_joinTrees hd
  refine .inl ?_
  rcases hbal.depths r (mem_of_rest hr) m (mem_of_merged hm) hc hd' hxy with hlt | ⟨heq, -⟩ <;> omega

include hbal hfit hpq hR hn in
/-- The merged trees come before `r`, so a less frequent symbol in `r` was deeper by one at least. -/
theorem depthsAgree_join_rest {r : NodeIx × SymbolTree} (hr : r ∈ R) : DepthsAgree f (joinTrees w n p q) r := by
  intro x y c d hc hd hxy
  obtain ⟨m, hm, c', hc', hclen⟩ := code_joinTrees hc
  have hmr := before_rest hpq hR hm hr
  have hlt : c'.length < d.length := by
    rcases hbal.depths m (mem_of_merged hm) r (mem_of_rest hr) hc' hd hxy with hlt | ⟨-, rfl | hrm⟩
    · exact hlt
    · exact absurd hmr (Before.irrefl _)
    · exact absurd (hmr.trans hrm) (Before.irrefl _)
  have hinner := height_pos_of_code hd (Nat.zero_lt_of_lt hlt)
  rcases (Nat.succ_le_of_lt hlt).lt_or_eq with hlt' | heq
  · exact .inl (by omega)
  · exact .inr ⟨by omega, .inr (inner_before_join hbal hfit hpq hn hr hinner)⟩

include hbal hfit hpq hR hn in
theorem balanced_join : Balanced f (joinTrees w n p q ::ₘ R) where
  depths := by
    refine Multiset.forall_mem_cons.mpr ⟨Multiset.forall_mem_cons.mpr ⟨depthsAgree_join_join hbal,
      fun r hr => depthsAgree_join_rest hbal hfit hpq hR hn hr⟩, fun r hr =>
      Multiset.forall_mem_cons.mpr ⟨depthsAgree_rest_join hbal hr, fun r' hr' =>
      hbal.depths r (mem_of_rest hr) r' (mem_of_rest hr')⟩⟩
  inner := by
    have hweight := joinTrees_weight (n := n) hfit
    have hwpq := hpq.weight_le
    refine Multiset.forall_mem_cons.mpr ⟨Multiset.forall_mem_cons.mpr ⟨fun _ => by omega,
      fun r hr _ => ?_⟩, fun r hr => Multiset.forall_mem_cons.mpr ⟨fun hinner => ?_, fun r' hr' =>
      hbal.inner r (mem_of_rest hr) r' (mem_of_rest hr')⟩⟩
    · have hwr := (hR r hr).weight_le
      omega
    · have htwice := hbal.inner r (mem_of_rest hr) p (mem_of_merged (.inl rfl)) hinner
      omega

end Step

theorem balanced_of_step {f : Sym → Nat} {w : Nat} {F G : Forest} (h : MergeStep w F G)
    (hfit : forestWeight F < 2 ^ w) (hF : Balanced f F) : Balanced f G := by
  obtain ⟨hpq, hR, hn⟩ := h
  exact balanced_join hF hfit hpq hR hn

theorem code_leaf {v y : Sym} {w : Nat} {c : BitString} (h : (SymbolTree.leaf v w).code y = some c) :
    v = y ∧ c = [] := by
  rw [SymbolTree.code] at h
  split at h
  next hv => exact ⟨hv, (Option.some.inj h).symm⟩
  next => cases h

/-- Leaves are all at depth 0, and a less frequent one goes first (R151). -/
theorem balanced_leafForest (s : State) : Balanced s.freq.get (leafForest (initLeaves s)) where
  depths p hp q hq x y c d hc hd hxy := by
    obtain ⟨v, hv⟩ := mem_leafForest hp
    obtain ⟨v', hv'⟩ := mem_leafForest hq
    rw [hv] at hc
    rw [hv'] at hd
    obtain ⟨rfl, rfl⟩ := code_leaf hc
    obtain ⟨rfl, rfl⟩ := code_leaf hd
    refine .inr ⟨rfl, .inr (.inl ?_)⟩
    rw [hv, hv']
    exact hxy
  inner p hp q _ hinner := by
    obtain ⟨v, hv⟩ := mem_leafForest hp
    rw [hv] at hinner
    cases hinner

/-! ### The tree that TB.BUILD makes -/

/-- The tree at ROOT after TB.BUILD comes from the leaves by merges (R153). -/
theorem tree_of_tbBuild {s t : State} {T : SymbolTree} (hs : 0 < s.freq.get pseudoEof)
    (hexec : exec .tbBuild s = .next t) (htree : t.tree = some T) :
    ∃ i, Merges s.par.w (leafForest (initLeaves s)) {(i, T)} := by
  obtain ⟨v, p, hbuilt, hbuild, hmerges⟩ := exec_tbBuild_merges hs
  obtain rfl := Host.Outcome.next.inj (hbuilt.symm.trans hexec)
  have hT := (hbuild.tree_eq (height_le_of_merges hmerges)).symm.trans htree
  obtain rfl := Option.some.inj hT
  exact ⟨p.1, hmerges⟩

/-- Settles O35: a merge adds the weights of the two trees as long as the forest's weight fits, and keeps it. -/
theorem builtWeightsAddUp : Obligations.BuiltWeightsAddUp := by
  intro s t T hs htotal hfit hexec htree
  rw [htotal, ← forestWeight_leafForest] at hfit
  obtain ⟨i, hmerges⟩ := tree_of_tbBuild hs hexec htree
  have hstart (p : NodeIx × SymbolTree) (hp : p ∈ leafForest (initLeaves s)) : p.2.weightsAdd := by
    obtain ⟨v, hv⟩ := mem_leafForest hp
    rw [hv]
    trivial
  obtain ⟨hadd, hweight⟩ := Merges.induction hmerges hfit hstart weightsAdd_of_step
  rw [forestWeight_singleton, forestWeight_leafForest, ← htotal] at hweight
  exact ⟨hadd _ (Multiset.mem_singleton_self _), hweight⟩

/-- Settles O36: every merge keeps the forest balanced. -/
theorem frequentSymbolsAreNotDeeper : Obligations.FrequentSymbolsAreNotDeeper := by
  intro s t T x y c d hs hfit hexec htree hxy hc hd
  rw [← forestWeight_leafForest] at hfit
  obtain ⟨i, hmerges⟩ := tree_of_tbBuild hs hexec htree
  obtain ⟨hbal, -⟩ := Merges.induction hmerges hfit (balanced_leafForest s) balanced_of_step
  have hmem := Multiset.mem_singleton_self (i, T)
  exact (hbal.depths _ hmem _ hmem hc hd hxy).elim Nat.le_of_lt fun h => h.1.le

end Sys2Proof.Proofs
end

section
/-! The codes of a tree (R166, R168, R170): which symbols have one, what a code below an Internal node is, that none
begins another, and the Kraft sum. -/

namespace Sys2Proof.Proofs

open Sys2Proof.Machine Sys2Proof.Laws

/-! ### Codes below an Internal node -/

theorem code_internal_of_left {w : Nat} {l r : SymbolTree} {y : Sym} {p : BitString} (h : l.code y = some p) :
    (SymbolTree.internal w l r).code y = some (false :: p) := by
  simp only [SymbolTree.code, h]

theorem code_internal_of_not_left {w : Nat} {l r : SymbolTree} {y : Sym} (h : l.code y = none) :
    (SymbolTree.internal w l r).code y = (r.code y).map fun p => true :: p := by
  simp only [SymbolTree.code, h]

theorem code_internal_eq_none {w : Nat} {l r : SymbolTree} {y : Sym} :
    (SymbolTree.internal w l r).code y = none ↔ l.code y = none ∧ r.code y = none := by
  cases hl : l.code y with
  | none => rw [code_internal_of_not_left hl, Option.map_eq_none_iff]; simp
  | some p => rw [code_internal_of_left hl]; simp

/-- The symbols with a code are the leaf values (R166). -/
theorem code_eq_none_iff {T : SymbolTree} {y : Sym} : T.code y = none ↔ y ∉ T.values := by
  induction T with
  | leaf v w => simp [SymbolTree.code, SymbolTree.values, eq_comm]
  | internal w l r ihl ihr =>
    rw [code_internal_eq_none, ihl, ihr, SymbolTree.values, List.mem_append, not_or]

theorem exists_code_of_mem {T : SymbolTree} {y : Sym} (h : y ∈ T.values) : ∃ p, T.code y = some p :=
  Option.ne_none_iff_exists'.mp fun hnone => code_eq_none_iff.mp hnone h

theorem mem_values_of_code {T : SymbolTree} {y : Sym} {p : BitString} (h : T.code y = some p) : y ∈ T.values := by
  by_contra hnot
  exact Option.some_ne_none p (h.symm.trans (code_eq_none_iff.mpr hnot))

/-- The two subtrees of a tree without repeated values have none either, and no value in common (R11). -/
theorem distinct_internal {w : Nat} {l r : SymbolTree} :
    (SymbolTree.internal w l r).distinct ↔ l.distinct ∧ r.distinct ∧ l.values.Disjoint r.values :=
  List.nodup_append'

theorem length_code_le_height {T : SymbolTree} {y : Sym} {p : BitString} (h : T.code y = some p) :
    p.length ≤ T.height := by
  induction T generalizing p with
  | leaf v w => rw [(code_leaf h).2]; exact le_rfl
  | internal w l r ihl ihr =>
    obtain ⟨b, q, rfl, hq⟩ := code_internal h
    rw [SymbolTree.height, List.length_cons, Nat.add_le_add_iff_right, le_max_iff]
    cases b with
    | false => exact .inl (ihl hq)
    | true => exact .inr (ihr hq)

/-! ### No code begins another (R168) -/

/-- Two codes part at the Internal node where their leaves do, and a leaf has one symbol only. -/
theorem code_not_prefix {T : SymbolTree} {x y : Sym} {p q : BitString} (hne : x ≠ y)
    (hp : T.code x = some p) (hq : T.code y = some q) : ¬ p <+: q := by
  induction T generalizing p q with
  | leaf v w => exact absurd ((code_leaf hp).1.symm.trans (code_leaf hq).1) hne
  | internal w l r ihl ihr =>
    obtain ⟨b, p', rfl, hp'⟩ := code_internal hp
    obtain ⟨c, q', rfl, hq'⟩ := code_internal hq
    rw [List.cons_prefix_cons]
    rintro ⟨rfl, hprefix⟩
    cases b with
    | false => exact ihl hp' hq' hprefix
    | true => exact ihr hp' hq' hprefix

/-- Settles O39: an empty code would begin the other one. -/
theorem codesArePrefixFree : Obligations.CodesArePrefixFree := by
  intro T x y p q hne hp hq
  have hpq := code_not_prefix hne hp hq
  refine ⟨hpq, code_not_prefix hne.symm hq hp, List.length_pos_iff.mpr ?_⟩
  rintro rfl
  exact hpq List.nil_prefix

/-! ### The Kraft sum (R170) -/

theorem codeBits_internal_left {w : Nat} {l r : SymbolTree} {y : Sym} (h : y ∈ l.values) :
    (SymbolTree.internal w l r).codeBits y = false :: l.codeBits y := by
  obtain ⟨p, hp⟩ := exists_code_of_mem h
  rw [SymbolTree.codeBits, SymbolTree.codeBits, code_internal_of_left hp, hp]
  rfl

theorem codeBits_internal_right {w : Nat} {l r : SymbolTree} {y : Sym} (hl : y ∉ l.values) (hr : y ∈ r.values) :
    (SymbolTree.internal w l r).codeBits y = true :: r.codeBits y := by
  obtain ⟨p, hp⟩ := exists_code_of_mem hr
  rw [SymbolTree.codeBits, SymbolTree.codeBits, code_internal_of_not_left (code_eq_none_iff.mpr hl), hp]
  rfl

/-- What the symbols of `l` add to the Kraft sum of the codes of `T`. -/
def kraftSum (T : SymbolTree) (l : List Sym) : ℚ := (l.map fun v => ((1 : ℚ) / 2) ^ (T.codeBits v).length).sum

theorem kraftSum_append (T : SymbolTree) (l m : List Sym) : kraftSum T (l ++ m) = kraftSum T l + kraftSum T m := by
  rw [kraftSum, List.map_append, List.sum_append]
  rfl

/-- One bit more in front of every code halves the sum. -/
theorem kraftSum_half {T U : SymbolTree} {b : Bool} {l : List Sym} (h : ∀ v ∈ l, T.codeBits v = b :: U.codeBits v) :
    kraftSum T l = 1 / 2 * kraftSum U l := by
  rw [kraftSum, kraftSum, ← List.sum_map_mul_left]
  refine congrArg List.sum (List.map_congr_left fun v hv => ?_)
  rw [h v hv, List.length_cons, pow_succ']

/-- Each subtree adds one half. -/
theorem kraftSum_values {T : SymbolTree} (hT : T.distinct) : kraftSum T T.values = 1 := by
  induction T with
  | leaf v w => simp [kraftSum, SymbolTree.values, SymbolTree.codeBits, SymbolTree.code]
  | internal w l r ihl ihr =>
    obtain ⟨hl, hr, hdisjoint⟩ := distinct_internal.mp hT
    rw [SymbolTree.values, kraftSum_append, kraftSum_half fun v hv => codeBits_internal_left hv,
      kraftSum_half fun v hv => codeBits_internal_right (fun hvl => hdisjoint hvl hv) hv, ihl hl, ihr hr]
    norm_num

/-- Settles O40: the sum over all leaf values, by induction on the tree. -/
theorem kraftEquality : Obligations.KraftEquality := fun _ hT => kraftSum_values hT

end Sys2Proof.Proofs
end

section
/-! CT.WALK and CT.DERIVE (R165 to R167): the walk records the codes of the tree below a node, each after the path
to the node. -/

namespace Sys2Proof.Proofs

open Sys2Proof.Machine Sys2Proof.Laws

/-! ### One entry of the code table -/

/-- The entry of a path that fits holds its length and its numeral (R165, R30). -/
theorem codeOfPath_len {p : BitString} (h : p.length ≤ maxDepth) : (codeOfPath p).len.val = p.length :=
  Nat.mod_eq_of_lt (Nat.lt_succ_of_le h)

theorem codeOfPath_bits {p : BitString} (h : p.length ≤ maxDepth) : (codeOfPath p).bits.toNat = numeral p :=
  Nat.mod_eq_of_lt ((numeral_lt p).trans_le (Nat.pow_le_pow_right (by decide) h))

/-- The bits of the entry are the path again (R99, R197). -/
theorem codeBits_codeOfPath {p : BitString} (h : p.length ≤ maxDepth) : codeBits (codeOfPath p) = p := by
  rw [codeBits, codeOfPath_len h, codeOfPath_bits h, bitsOf_numeral]

theorem code_recordCode_same (y : Sym) (p : BitString) (s : State) : (recordCode y p s).code.get y = codeOfPath p :=
  get_set_same _ _ _

theorem codeValid_recordCode_same (y : Sym) (p : BitString) (s : State) : (recordCode y p s).codeValid.get y = true :=
  get_set_same _ _ _

theorem code_recordCode_ne {y z : Sym} (p : BitString) (s : State) (h : y ≠ z) :
    (recordCode y p s).code.get z = s.code.get z := get_set_ne _ _ h

theorem codeValid_recordCode_ne {y z : Sym} (p : BitString) (s : State) (h : y ≠ z) :
    (recordCode y p s).codeValid.get z = s.codeValid.get z := get_set_ne _ _ h

/-! ### The codes of a tree in the table -/

/-- The table with every leaf of `T` recorded, left to right, its code after `path` (R165). -/
def recordCodes : SymbolTree → BitString → State → State
  | .leaf v _, path, s => recordCode v path s
  | .internal _ l r, path, s => recordCodes r (path ++ [true]) (recordCodes l (path ++ [false]) s)

/-- All the recording can change. -/
theorem recordCodes_frame (T : SymbolTree) (path : BitString) (s : State) : recordCodes T path s = { s with
    code := (recordCodes T path s).code, codeValid := (recordCodes T path s).codeValid } := by
  induction T generalizing path s with
  | leaf v w => rfl
  | internal w l r ihl ihr => rw [recordCodes, ihr, ihl]

/-- Recording codes leaves the node memory (R28). -/
theorem treeAt_recordCodes (T : SymbolTree) (path : BitString) (s : State) (d : Nat) (i : NodeIx) :
    treeAt (recordCodes T path s) d i = treeAt s d i :=
  treeAt_congr (by rw [recordCodes_frame]) (by rw [recordCodes_frame]) d i

/-- A symbol that is no leaf keeps its entry. -/
theorem recordCodes_of_no_code {T : SymbolTree} {y : Sym} (path : BitString) (s : State) (h : T.code y = none) :
    (recordCodes T path s).codeValid.get y = s.codeValid.get y ∧ (recordCodes T path s).code.get y = s.code.get y := by
  induction T generalizing path s with
  | leaf v w =>
    have hne : v ≠ y := fun hv => code_eq_none_iff.mp h (List.mem_singleton.mpr hv.symm)
    exact ⟨codeValid_recordCode_ne path s hne, code_recordCode_ne path s hne⟩
  | internal w l r ihl ihr =>
    obtain ⟨hl, hr⟩ := code_internal_eq_none.mp h
    obtain ⟨hvalid, hcode⟩ := ihl (path ++ [false]) s hl
    obtain ⟨hvalid', hcode'⟩ := ihr (path ++ [true]) (recordCodes l (path ++ [false]) s) hr
    exact ⟨hvalid'.trans hvalid, hcode'.trans hcode⟩

/-- A leaf has its code after `path`: no other leaf writes its entry where no value is repeated. -/
theorem recordCodes_of_code {T : SymbolTree} {y : Sym} {p : BitString} (path : BitString) (s : State)
    (hT : T.distinct) (h : T.code y = some p) :
    (recordCodes T path s).codeValid.get y = true ∧ (recordCodes T path s).code.get y = codeOfPath (path ++ p) := by
  induction T generalizing path s p with
  | leaf v w =>
    obtain ⟨rfl, rfl⟩ := code_leaf h
    rw [List.append_nil]
    exact ⟨codeValid_recordCode_same v path s, code_recordCode_same v path s⟩
  | internal w l r ihl ihr =>
    obtain ⟨hl, hr, hdisjoint⟩ := distinct_internal.mp hT
    obtain ⟨b, q, rfl, hq⟩ := code_internal h
    rw [recordCodes, List.append_cons path b q]
    cases b with
    | true => exact ihr _ _ hr hq
    | false =>
      obtain ⟨hvalid, hcode⟩ := recordCodes_of_no_code (path ++ [true]) (recordCodes l (path ++ [false]) s)
        (code_eq_none_iff.mpr (hdisjoint (mem_values_of_code hq)))
      obtain ⟨hvalid', hcode'⟩ := ihl (path ++ [false]) s hl hq
      exact ⟨hvalid.trans hvalid', hcode.trans hcode'⟩

/-! ### The walk -/

/-- A tree read with `d` levels has its subtrees one level below (R28). -/
theorem treeAt_children {s : State} {d : Nat} {i : NodeIx} {w : Nat} {l r : SymbolTree}
    (h : treeAt s d i = some (.internal w l r)) :
    ∃ e, d = e + 1 ∧ treeAt s e (nodeAt s i).left = some l ∧ treeAt s e (nodeAt s i).right = some r := by
  obtain ⟨hkind, -⟩ := treeAt_eq_internal h
  have hlt := treeAt_lt h
  unfold treeAt at h
  simp only [if_pos hlt, hkind] at h
  split at h
  next => cases h
  next e =>
    split at h
    next hl hr =>
      cases h
      exact ⟨e, rfl, hl, hr⟩
    next => cases h

theorem height_le_of_treeAt {s : State} {d : Nat} {i : NodeIx} {T : SymbolTree} (h : treeAt s d i = some T) :
    T.height ≤ d := by
  induction T generalizing d i with
  | leaf v w => exact Nat.zero_le d
  | internal w l r ihl ihr =>
    obtain ⟨e, rfl, hl, hr⟩ := treeAt_children h
    exact Nat.succ_le_succ (max_le (ihl hl) (ihr hr))

/-- CT.WALK at a node records the codes of the tree below it (R165). -/
theorem walkCodes_eq_record {s : State} {d : Nat} {i : NodeIx} {T : SymbolTree} (path : BitString)
    (h : treeAt s d i = some T) : walkCodes d i path s = .ok () (recordCodes T path s) := by
  induction T generalizing d i path s with
  | leaf v w =>
    obtain ⟨hkind, rfl⟩ := treeAt_eq_leaf h
    unfold walkCodes
    simp only [hkind]
    rfl
  | internal w l r ihl ihr =>
    obtain ⟨hkind, -⟩ := treeAt_eq_internal h
    obtain ⟨e, rfl, hl, hr⟩ := treeAt_children h
    unfold walkCodes
    simp only [hkind]
    rw [ihl _ hl]
    exact ihr _ ((treeAt_recordCodes _ _ s e _).trans hr)

theorem exec_ctDerive_of_tree {s : State} {T : SymbolTree} (h : s.tree = some T) :
    exec .ctDerive s = .next (recordCodes T [] (clearCodes s)) := by
  have hwalk : deriveCodes s = .ok () (recordCodes T [] (clearCodes s)) :=
    walkCodes_eq_record [] ((treeAt_congr (s := s) (t := clearCodes s) rfl rfl _ _).trans h)
  exact congrArg (fun r => r.toOutcome fun _ t => t) hwalk

theorem exec_ctWalk_of_tree {s : State} {T : SymbolTree} {i : NodeIx} {path : BitString} (hpath : path.length ≤ maxDepth)
    (h : treeAt s (maxDepth - path.length) i = some T) : exec (.ctWalk i path) s = .next (recordCodes T path s) := by
  change execCtWalk i path s = _
  rw [execCtWalk, if_pos hpath, walkCodes_eq_record path h]
  rfl

/-- Settles O37: CT.DERIVE is the walk from ROOT with the empty path, in a table with no symbol valid. -/
theorem codesAreThePaths : Obligations.CodesAreThePaths := by
  intro s T htree hT
  refine ⟨_, exec_ctDerive_of_tree htree, recordCodes_frame T [] (clearCodes s), fun y => ?_⟩
  cases hy : T.code y with
  | none =>
    obtain ⟨hvalid, hcode⟩ := recordCodes_of_no_code [] (clearCodes s) hy
    exact ⟨hvalid.trans (get_table _ y), hcode⟩
  | some p =>
    obtain ⟨hvalid, hcode⟩ := recordCodes_of_code [] (clearCodes s) hT hy
    have hp : p.length ≤ maxDepth := (length_code_le_height hy).trans (height_le_of_treeAt htree)
    rw [List.nil_append] at hcode
    rw [hcode]
    exact ⟨hvalid, codeOfPath_len hp, codeOfPath_bits hp, codeBits_codeOfPath hp⟩

/-- Settles O38: the path and the code fit in an entry together, as the walk has only the levels the path leaves. -/
theorem walkExtendsThePath : Obligations.WalkExtendsThePath := by
  intro s T i path hpath htree hT
  refine ⟨_, exec_ctWalk_of_tree hpath htree, recordCodes_frame T path s, fun y => ?_⟩
  cases hy : T.code y with
  | none => exact recordCodes_of_no_code path s hy
  | some p =>
    obtain ⟨hvalid, hcode⟩ := recordCodes_of_code path s hT hy
    have hp : p.length ≤ maxDepth - path.length := (length_code_le_height hy).trans (height_le_of_treeAt htree)
    have hfit : (path ++ p).length ≤ maxDepth := by rw [List.length_append]; omega
    exact ⟨hvalid, by rw [hcode, codeBits_codeOfPath hfit]⟩

end Sys2Proof.Proofs
end

section
/-! HDR.SER and the header's tokens (R175 to R183): the serializer puts the bits of the tree, a token is fetched
exactly when its bits are there, and a node is made exactly when its checks pass. -/

namespace Sys2Proof.Proofs

open Sys2Proof.Machine Sys2Proof.Laws

/-! ### The serializer (R175, R176) -/

theorem treeAt_putBits (l : BitString) (s : State) (d : Nat) (i : NodeIx) :
    treeAt (putBits l s) d i = treeAt s d i :=
  treeAt_congr (by rw [putBits_frame]) (by rw [putBits_frame]) d i

theorem serialize_eq_putBits {s : State} {d : Nat} {i : NodeIx} {T : SymbolTree} (h : treeAt s d i = some T) :
    serialize d i s = .ok () (putBits T.ser s) := by
  induction T generalizing d i s with
  | leaf v w =>
    obtain ⟨hkind, rfl⟩ := treeAt_eq_leaf h
    unfold serialize
    simp only [hkind]
    rw [SymbolTree.ser, putBits_cons, leafBits, writeBits]
  | internal w l r ihl ihr =>
    obtain ⟨hkind, -⟩ := treeAt_eq_internal h
    obtain ⟨e, rfl, hl, hr⟩ := treeAt_children h
    unfold serialize
    simp only [hkind]
    rw [ihl (s := putBit false s) ((treeAt_putBits [false] s e _).trans hl), bind_ok, ← putBits_cons,
      ihr ((treeAt_putBits _ s e _).trans hr), ← putBits_append]
    rfl

theorem length_ser (T : SymbolTree) : T.ser.length = 10 * T.leaves + T.internals := by
  induction T with
  | leaf v w => exact congrArg Nat.succ (bitsOf_length 9 v.val)
  | internal w l r ihl ihr =>
    rw [SymbolTree.ser, List.length_cons, List.length_append, ihl, ihr, SymbolTree.leaves, SymbolTree.internals]
    omega

/-- Settles O41: by induction on the tree; a tree has one leaf more than it has Internal nodes. -/
theorem serializesInPreorder : Obligations.SerializesInPreorder := by
  intro s T i h
  have hputs := execSeq_map_putbit_append T.ser [] s
  rw [List.append_nil] at hputs
  refine ⟨congrArg (fun r => r.toOutcome fun _ t => t) (serialize_eq_putBits h), hputs, length_ser T, ?_⟩
  rw [length_ser, leaves_eq_internals_succ]
  omega

/-! ### Fetching a token (R98, R177) -/

/-- No whole token stands at the front: not even a tag, or fewer bits than the tag calls for. -/
def NoToken (l : BitString) : Prop := ∀ tag tail, l = tag :: tail → tail.length < tokenTail tag

/-- At the front of every bit string stands a whole token, or none. -/
theorem token_or_noToken (l : BitString) :
    (∃ tag tail z, tail.length = tokenTail tag ∧ l = tag :: (tail ++ z)) ∨ NoToken l := by
  cases l with
  | nil => exact .inr nofun
  | cons tag m =>
    rcases Nat.lt_or_ge m.length (tokenTail tag) with hlt | hle
    · refine .inr fun tag' tail h => ?_
      obtain ⟨rfl, rfl⟩ := List.cons.inj h
      exact hlt
    · exact .inl ⟨tag, m.take (tokenTail tag), m.drop (tokenTail tag), List.length_take_of_le hle,
        by rw [List.take_append_drop]⟩

theorem fetchNode_of_token {s : State} {tag : Bool} {tail z : BitString} (hlen : tail.length = tokenTail tag)
    (h : remaining s = tag :: (tail ++ z)) : ∃ t, fetchNode s = (some (nodeToken tag tail), t) ∧ remaining t = z := by
  obtain ⟨hbit, hrest⟩ := getBit_remaining s
  rw [h] at hbit hrest
  obtain ⟨t, hbits, hz⟩ := getBits_of_remaining (s := (getBit s).2) hrest
  rw [hlen] at hbits
  refine ⟨t, ?_, hz⟩
  rw [fetchNode, show getBit s = (some tag, (getBit s).2) from Prod.ext hbit rfl]
  simp only [hbits]

theorem fetchNode_of_noToken {s : State} (h : NoToken (remaining s)) : ∃ t, fetchNode s = (none, t) := by
  obtain ⟨hbit, hrest⟩ := getBit_remaining s
  cases hs : remaining s with
  | nil =>
    rw [hs] at hbit
    refine ⟨(getBit s).2, ?_⟩
    rw [fetchNode, show getBit s = (none, (getBit s).2) from Prod.ext hbit rfl]
  | cons tag tail =>
    rw [hs] at hbit hrest
    have hshort : ¬ tokenTail tag ≤ (remaining (getBit s).2).length := by
      rw [hrest]
      exact Nat.not_le.mpr (h tag tail hs)
    have hbits : getBits (tokenTail tag) (getBit s).2 = (none, (getBits (tokenTail tag) (getBit s).2).2) :=
      Prod.ext ((getBits_remaining _ _).1.trans (if_neg hshort)) rfl
    refine ⟨(getBits (tokenTail tag) (getBit s).2).2, ?_⟩
    rw [fetchNode, show getBit s = (some tag, (getBit s).2) from Prod.ext hbit rfl]
    dsimp only
    rw [hbits]

/-- What is fetched stood at the front of the bits left. -/
theorem remaining_of_fetchNode {s t : State} {k : NodeToken} (h : fetchNode s = (some k, t)) :
    ∃ tag tail, tail.length = tokenTail tag ∧ k = nodeToken tag tail ∧ remaining s = tag :: (tail ++ remaining t) := by
  obtain ⟨tag, tail, z, hlen, hs⟩ | hnone := token_or_noToken (remaining s)
  · obtain ⟨u, hu, rfl⟩ := fetchNode_of_token hlen hs
    obtain ⟨hk, rfl⟩ := Prod.mk.inj (h.symm.trans hu)
    exact ⟨tag, tail, hlen, Option.some.inj hk, hs⟩
  · obtain ⟨u, hu⟩ := fetchNode_of_noToken hnone
    cases h.symm.trans hu

/-- All a token fetch can change. -/
theorem fetchNode_frame (s : State) : (fetchNode s).2 = { s with
    rdByte := (fetchNode s).2.rdByte, rdCnt := (fetchNode s).2.rdCnt, pos := (fetchNode s).2.pos,
    trace := (fetchNode s).2.trace } := by
  have hbit := getBit_frame s
  unfold fetchNode
  generalize getBit s = g at hbit ⊢
  obtain ⟨_ | tag, t⟩ := g
  · exact hbit
  · have hbits := getBits_frame (tokenTail tag) t
    dsimp only at hbit ⊢
    generalize getBits (tokenTail tag) t = g at hbits ⊢
    obtain ⟨_ | tail, u⟩ := g <;>
    · dsimp only at hbits ⊢
      rw [hbits, hbit]

/-! ### Making a node (R177 to R180) -/

/-- The node of a leaf token (R177). -/
def headerLeaf (y : Sym) : Node := { kind := .leaf, value := y, weight := 0, left := 0, right := 0 }

/-- The node of an Internal token, before its children are linked (R177). -/
def headerInternal : Node := { kind := .internal, value := 0, weight := 0, left := 0, right := 0 }

/-- A node written at index `n`, which is `NODE_CNT` (R27). -/
def addNode (x : Node) (n : NodeIx) (s : State) : State := { setNode n x s with nodeCnt := n.succ }

theorem newNode_of_room (x : Node) {n : NodeIx} {s : State} (hn : n.val = s.nodeCnt.val) :
    newNode x s = .ok n (addNode x n s) :=
  newNode_eq_ok.mpr ⟨hn ▸ n.isLt, Fin.ext hn, by simp only [addNode, ← hn]; rfl⟩

@[simp] theorem nodeAt_addNode_same (x : Node) (n : NodeIx) (s : State) : nodeAt (addNode x n s) n = x :=
  get_set_same _ _ _

theorem nodeAt_addNode_ne (x : Node) {n i : NodeIx} (s : State) (h : n ≠ i) : nodeAt (addNode x n s) i = nodeAt s i :=
  get_set_ne _ _ h

/-- `SEEN[y] <- 1` (R179). -/
def markSeen (y : Sym) (s : State) : State := { s with seen := s.seen.set y.val true y.isLt }

theorem seen_markSeen (y x : Sym) (s : State) : (markSeen y s).seen.get x = if x = y then true else s.seen.get x := by
  split
  next h => rw [h]; exact get_set_same _ _ _
  next h => exact get_set_ne _ _ (Ne.symm h)

/-- `INT_CNT <- INT_CNT + 1`, up to the 256 of R180. -/
def countInternal (s : State) (h : s.intCnt.val < 256) : State := { s with intCnt := ⟨s.intCnt.val + 1, by omega⟩ }

theorem makeLeaf_of_new {v : BitVec 9} {y : Sym} {n : NodeIx} {s : State} (hv : v.toNat = y.val)
    (hseen : s.seen.get y = false) (hn : n.val = s.nodeCnt.val) :
    makeLeaf v s = .ok n (addNode (headerLeaf y) n (markSeen y s)) := by
  simp only [makeLeaf, symOfLeaf_val hv, hseen]
  exact newNode_of_room (headerLeaf y) (s := markSeen y s) hn

theorem makeLeaf_of_seen {v : BitVec 9} {y : Sym} {s : State} (hv : v.toNat = y.val) (hseen : s.seen.get y = true) :
    makeLeaf v s = .raised (raise .malformedHeader s) := by
  simp only [makeLeaf, symOfLeaf_val hv, hseen, if_true]

theorem makeLeaf_of_reserved {v : BitVec 9} (s : State) (hv : 256 < v.toNat) :
    makeLeaf v s = .raised (raise .malformedHeader s) := by
  simp only [makeLeaf, symOfLeaf, dif_neg (show ¬ v.toNat < 257 by omega)]

/-- A leaf is made of a legal value not seen before, and where there is room. -/
theorem makeLeaf_eq_ok {v : BitVec 9} {s t : State} {n : NodeIx} (h : makeLeaf v s = .ok n t) :
    ∃ y : Sym, v.toNat = y.val ∧ s.seen.get y = false ∧ n.val = s.nodeCnt.val ∧
      t = addNode (headerLeaf y) n (markSeen y s) := by
  rcases Nat.lt_or_ge 256 v.toNat with hv | hv
  · cases (makeLeaf_of_reserved s hv).symm.trans h
  · obtain ⟨y, hy⟩ : ∃ y : Sym, v.toNat = y.val := ⟨⟨v.toNat, Nat.lt_succ_of_le hv⟩, rfl⟩
    cases hseen : s.seen.get y with
    | true => cases (makeLeaf_of_seen hy hseen).symm.trans h
    | false =>
      rcases Nat.lt_or_ge s.nodeCnt.val 513 with hroom | hfull
      · obtain ⟨rfl, rfl⟩ := Res.ok.inj ((makeLeaf_of_new (n := ⟨_, hroom⟩) hy hseen rfl).symm.trans h)
        exact ⟨y, hy, hseen, rfl, rfl⟩
      · cases (makeLeaf_full (by omega) hy hseen).symm.trans h

theorem makeInternal_of_room {n : NodeIx} {s : State} (hint : s.intCnt.val < 256) (hn : n.val = s.nodeCnt.val) :
    makeInternal s = .ok n (addNode headerInternal n (countInternal s hint)) := by
  rw [makeInternal, dif_pos hint]
  exact newNode_of_room headerInternal (s := countInternal s hint) hn

theorem makeInternal_of_full {s : State} (h : s.intCnt.val = 256) :
    makeInternal s = .raised (raise .malformedHeader s) := by
  rw [makeInternal, dif_neg (by omega)]

/-- An Internal node is made while there are fewer than 256 of them, and where there is room. -/
theorem makeInternal_eq_ok {s t : State} {n : NodeIx} (h : makeInternal s = .ok n t) :
    ∃ hint : s.intCnt.val < 256, n.val = s.nodeCnt.val ∧ t = addNode headerInternal n (countInternal s hint) := by
  rcases Nat.lt_or_ge s.intCnt.val 256 with hint | hint
  · rcases Nat.lt_or_ge s.nodeCnt.val 513 with hroom | hfull
    · obtain ⟨rfl, rfl⟩ := Res.ok.inj ((makeInternal_of_room (n := ⟨_, hroom⟩) hint rfl).symm.trans h)
      exact ⟨hint, rfl, rfl⟩
    · cases (makeInternal_full (by omega) hint).symm.trans h
  · cases (makeInternal_of_full (by omega)).symm.trans h

theorem exec_nodeInternal (s : State) :
    exec .nodeInternal s = ((makeInternal s).bind pushNode).toOutcome fun _ t => t := rfl

theorem exec_nodeLeaf (v : BitVec 9) (s : State) :
    exec (.nodeLeaf v) s = (makeLeaf v s).toOutcome fun n t => returnNode n t.stack t := rfl

/-- Settles O42: the checks decide whether a node is made; an Internal one is pushed, a leaf returned to the top of
the stack. -/
theorem headerTokens : Obligations.HeaderTokens := by
  intro s
  refine ⟨⟨initHeader s, rfl, rfl, fun y => get_table _ y⟩, fun hint hstack h => ?_, fun hint => ?_, fun v hv => ?_,
    fun v y hv hseen => ?_, fun v y hv hseen h => ?_⟩
  · refine ⟨{ addNode headerInternal ⟨s.nodeCnt.val, h⟩ (countInternal s hint) with
      stack := ⟨⟨s.nodeCnt.val, h⟩, .left⟩ :: s.stack, ret := .none }, ?_, rfl, rfl, rfl,
      nodeAt_addNode_same headerInternal _ (countInternal s hint),
      fun i hi => nodeAt_addNode_ne headerInternal (countInternal s hint) fun e => hi (congrArg Fin.val e).symm, rfl⟩
    rw [exec_nodeInternal, makeInternal_of_room (n := ⟨_, h⟩) hint rfl]
    exact congrArg (Res.toOutcome · fun _ t => t) (if_pos hstack)
  · rw [exec_nodeInternal, makeInternal_of_full hint]
    rfl
  · rw [exec_nodeLeaf, makeLeaf_of_reserved s hv]
    rfl
  · rw [exec_nodeLeaf, makeLeaf_of_seen hv hseen]
    rfl
  · have hexec : exec (.nodeLeaf v) s = .next (returnNode ⟨s.nodeCnt.val, h⟩ s.stack
        (addNode (headerLeaf y) ⟨s.nodeCnt.val, h⟩ (markSeen y s))) := by
      rw [exec_nodeLeaf, makeLeaf_of_new (n := ⟨_, h⟩) hv hseen rfl]
      rfl
    refine ⟨addNode (headerLeaf y) ⟨s.nodeCnt.val, h⟩ (markSeen y s), rfl, rfl,
      nodeAt_addNode_same (headerLeaf y) _ (markSeen y s),
      fun i hi => nodeAt_addNode_ne (headerLeaf y) (markSeen y s) fun e => hi (congrArg Fin.val e).symm,
      fun x => seen_markSeen y x s, fun hstack => ?_, fun p rest hstack => ?_, fun p rest hstack => ?_⟩
    · rw [hexec, hstack, returnNode, ← hstack]
      rfl
    · rw [hexec, hstack]
      rfl
    · rw [hexec, hstack]
      rfl

end Sys2Proof.Proofs
end

section
/-! What HDR.DES leaves after reading a tree (R177), as a relation between the states before and after, and what one
call of it comes to. -/

namespace Sys2Proof.Proofs

open Sys2Proof.Machine Sys2Proof.Laws

/-! ### What reading a tree comes to -/

/-- From `s` to `t` only what HDR.DES works on has changed (R177). -/
def HeaderFrame (s t : State) : Prop := t = { s with
  node := t.node, nodeCnt := t.nodeCnt, intCnt := t.intCnt, seen := t.seen,
  rdByte := t.rdByte, rdCnt := t.rdCnt, pos := t.pos, trace := t.trace }

theorem HeaderFrame.trans {s t u : State} (h : HeaderFrame s t) (k : HeaderFrame t u) : HeaderFrame s u := by
  unfold HeaderFrame at *
  rw [k, h]

/-- From `s` to `t` the bits `b` have been read, and nothing else has been done (R124, R177). -/
structure Took (b : BitString) (s t : State) : Prop where
  bits : remaining s = b ++ remaining t
  frame : t = { s with rdByte := t.rdByte, rdCnt := t.rdCnt, pos := t.pos, trace := t.trace }

namespace Took

variable {b : BitString} {s t : State}

theorem node (h : Took b s t) : t.node = s.node := by rw [h.frame]

theorem nodeCnt (h : Took b s t) : t.nodeCnt = s.nodeCnt := by rw [h.frame]

theorem intCnt (h : Took b s t) : t.intCnt = s.intCnt := by rw [h.frame]

theorem seen (h : Took b s t) : t.seen = s.seen := by rw [h.frame]

theorem headerFrame (h : Took b s t) : HeaderFrame s t := by
  unfold HeaderFrame
  rw [h.frame]

theorem nodeAt (h : Took b s t) (i : NodeIx) : nodeAt t i = Machine.nodeAt s i := by
  rw [Machine.nodeAt, Machine.nodeAt, h.node]

end Took

/-- The values of `T` are not seen yet, and none comes twice (R179). -/
def NewValues (T : SymbolTree) (s : State) : Prop := T.distinct ∧ ∀ y ∈ T.values, s.seen.get y = false

theorem newValues_congr {T : SymbolTree} {s t : State} (h : t.seen = s.seen) : NewValues T t ↔ NewValues T s := by
  rw [NewValues, NewValues, h]

theorem newValues_leaf {y : Sym} {w : Nat} {s : State} (h : s.seen.get y = false) : NewValues (.leaf y w) s :=
  ⟨List.nodup_singleton y, fun _ hx => List.mem_singleton.mp hx ▸ h⟩

/-- `SEEN` of `t` has the marks of `s` and the values `l` (R179). -/
def Marks (l : List Sym) (s t : State) : Prop := ∀ y, t.seen.get y = true ↔ s.seen.get y = true ∨ y ∈ l

theorem Marks.append {l m : List Sym} {s t u : State} (h : Marks l s t) (k : Marks m t u) : Marks (l ++ m) s u :=
  fun y => by rw [k y, h y, List.mem_append, or_assoc]

/-- The values of an Internal node are new when those of its left child are, and then those of its right child. -/
theorem newValues_internal {w : Nat} {l r : SymbolTree} {s t : State} (h : Marks l.values s t) :
    NewValues (.internal w l r) s ↔ NewValues l s ∧ NewValues r t := by
  have hunseen (y : Sym) : t.seen.get y = false ↔ s.seen.get y = false ∧ y ∉ l.values := by
    rw [← Bool.not_eq_true, h y, not_or, Bool.not_eq_true]
  simp only [NewValues, distinct_internal, SymbolTree.values, List.mem_append, hunseen]
  constructor
  · rintro ⟨⟨hl, hr, hdisjoint⟩, hnew⟩
    exact ⟨⟨hl, fun y hy => hnew y (.inl hy)⟩, hr, fun y hy => ⟨hnew y (.inr hy), fun hyl => hdisjoint hyl hy⟩⟩
  · rintro ⟨⟨hl, hnewl⟩, hr, hnewr⟩
    exact ⟨⟨hl, hr, fun y hyl hyr => (hnewr y hyr).2 hyl⟩, fun y hy => hy.elim (hnewl y) fun hyr => (hnewr y hyr).1⟩

/-- In `t` the tree `T` stands at `n`, in entries from index `k` on: every memory that has them has it too. -/
def StandsFrom (k : Nat) (t : State) (n : NodeIx) (T : SymbolTree) : Prop :=
  ∀ (u : State) (d : Nat), t.nodeCnt.val ≤ u.nodeCnt.val →
    (∀ i : NodeIx, k ≤ i.val → i.val < t.nodeCnt.val → nodeAt u i = nodeAt t i) → T.height ≤ d →
    treeAt u d n = some T

/-- What HDR.DES has done when it has read `T` and answers the index `n` (R177, R182). -/
structure Reads (T : SymbolTree) (s : State) (n : NodeIx) (t : State) : Prop where
  frame : HeaderFrame s t
  bits : remaining s = T.ser ++ remaining t
  index : n.val = s.nodeCnt.val
  nodeCnt : t.nodeCnt.val = s.nodeCnt.val + (T.leaves + T.internals)
  intCnt : t.intCnt.val = s.intCnt.val + T.internals
  seen : Marks T.values s t
  below : ∀ i : NodeIx, i.val < s.nodeCnt.val → nodeAt t i = nodeAt s i
  tree : StandsFrom s.nodeCnt.val t n T.unweighted

/-- What HDR.DES has done when it goes on to the children of a new Internal node `n` (R177). -/
structure Opens (s : State) (n : NodeIx) (t : State) : Prop where
  frame : HeaderFrame s t
  bits : remaining s = false :: remaining t
  index : n.val = s.nodeCnt.val
  nodeCnt : t.nodeCnt.val = s.nodeCnt.val + 1
  intCnt : t.intCnt.val = s.intCnt.val + 1
  seen : t.seen = s.seen
  below : ∀ i : NodeIx, i.val < s.nodeCnt.val → nodeAt t i = nodeAt s i
  node : nodeAt t n = headerInternal

theorem height_unweighted (T : SymbolTree) : T.unweighted.height = T.height := by
  induction T with
  | leaf v w => rfl
  | internal w l r ihl ihr => rw [SymbolTree.unweighted, SymbolTree.height, SymbolTree.height, ihl, ihr]

/-- A leaf token read and its node made (R177). -/
theorem reads_leaf {s t : State} {y : Sym} {n : NodeIx} (w : Nat) (h : Took (true :: leafBits y) s t)
    (hn : n.val = t.nodeCnt.val) : Reads (.leaf y w) s n (addNode (headerLeaf y) n (markSeen y t)) where
  frame := h.headerFrame.trans rfl
  bits := h.bits
  index := by rw [hn, h.nodeCnt]
  nodeCnt := by rw [← h.nodeCnt, ← hn]; rfl
  intCnt := congrArg Fin.val h.intCnt
  seen := fun x => by
    have hseen : (addNode (headerLeaf y) n (markSeen y t)).seen.get x = if x = y then true else s.seen.get x := by
      rw [← h.seen]
      exact seen_markSeen y x t
    rw [hseen, SymbolTree.values, List.mem_singleton]
    split
    next hx => simp [hx]
    next hx => simp [hx]
  below := fun i hi => by
    have hne : n ≠ i := fun e => by rw [← e, hn, h.nodeCnt] at hi; exact lt_irrefl _ hi
    exact (nodeAt_addNode_ne _ _ hne).trans (h.nodeAt i)
  tree := fun u d hcnt hnode _ => by
    have hlt : n.val < (addNode (headerLeaf y) n (markSeen y t)).nodeCnt.val := Nat.lt_succ_self _
    have hat : nodeAt u n = headerLeaf y :=
      (hnode n (by rw [hn, h.nodeCnt]) hlt).trans (nodeAt_addNode_same _ _ _)
    rw [treeAt_of_leaf d (hlt.trans_le hcnt) (by rw [hat]; rfl), hat]
    rfl

/-- An Internal token read and its node made (R177). -/
theorem opens_internal {s t : State} {n : NodeIx} (h : Took [false] s t) (hint : t.intCnt.val < 256)
    (hn : n.val = t.nodeCnt.val) : Opens s n (addNode headerInternal n (countInternal t hint)) where
  frame := h.headerFrame.trans rfl
  bits := h.bits
  index := by rw [hn, h.nodeCnt]
  nodeCnt := by rw [← h.nodeCnt, ← hn]; rfl
  intCnt := by rw [← h.intCnt]; rfl
  seen := h.seen
  below := fun i hi => by
    have hne : n ≠ i := fun e => by rw [← e, hn, h.nodeCnt] at hi; exact lt_irrefl _ hi
    exact (nodeAt_addNode_ne _ _ hne).trans (h.nodeAt i)
  node := nodeAt_addNode_same _ _ _

/-! ### A new Internal node with the trees of its children -/

section Internal

variable {x : Nat} {l r : SymbolTree} {s u v w : State} {n i j : NodeIx}

theorem Opens.index_succ (ho : Opens s n u) : u.nodeCnt.val = n.val + 1 := by rw [ho.nodeCnt, ho.index]

/-- While the right child is read, the memory that the left one left keeps all but the new node. -/
theorem nodeAt_linked_old (hr : Reads r (setLeft n i v) j w) {k : NodeIx} (hne : n ≠ k) (hk : k.val < v.nodeCnt.val) :
    nodeAt (setRight n j w) k = nodeAt v k := by
  rw [setRight, nodeAt_setNode_ne _ _ hne, hr.below k hk, setLeft, nodeAt_setNode_ne _ _ hne]

/-- The new node in the end: Internal, without weight, and linked to both children (R177). -/
theorem nodeAt_linked_new (ho : Opens s n u) (hl : Reads l u i v) (hr : Reads r (setLeft n i v) j w) :
    nodeAt (setRight n j w) n = { headerInternal with left := i, right := j } := by
  have hu : n.val < u.nodeCnt.val := by rw [ho.index_succ]; exact Nat.lt_succ_self _
  have hv : n.val < v.nodeCnt.val := by rw [hl.nodeCnt]; omega
  rw [setRight, nodeAt_setNode_same, hr.below n hv, setLeft, nodeAt_setNode_same, hl.below n hu, ho.node]

/-- The trees of the children stand above the new node, so the links leave them whole. -/
theorem standsFrom_internal (ho : Opens s n u) (hl : Reads l u i v) (hr : Reads r (setLeft n i v) j w) :
    StandsFrom s.nodeCnt.val (setRight n j w) n (.internal 0 l.unweighted r.unweighted) := by
  have hcntu := ho.index_succ
  have hcntv := hl.nodeCnt
  have hcntw : w.nodeCnt.val = v.nodeCnt.val + (r.leaves + r.internals) := hr.nodeCnt
  intro y d hcnt hnode hd
  replace hcnt : w.nodeCnt.val ≤ y.nodeCnt.val := hcnt
  rw [← ho.index] at hnode
  have hat : nodeAt y n = { headerInternal with left := i, right := j } :=
    (hnode n le_rfl (show n.val < w.nodeCnt.val by omega)).trans (nodeAt_linked_new ho hl hr)
  obtain ⟨e, rfl⟩ := Nat.exists_eq_succ_of_ne_zero (Nat.ne_zero_of_lt hd)
  obtain ⟨hle, hre⟩ := max_le_iff.mp (Nat.le_of_succ_le_succ hd)
  have hleft : treeAt y e i = some l.unweighted := by
    refine hl.tree y e (by omega) (fun k hk hkv => ?_) hle
    have hne : n ≠ k := by rintro rfl; omega
    exact (hnode k (by omega) (show k.val < w.nodeCnt.val by omega)).trans (nodeAt_linked_old hr hne hkv)
  have hright : treeAt y e j = some r.unweighted := by
    refine hr.tree y e hcnt (fun k hk hkw => ?_) hre
    replace hk : v.nodeCnt.val ≤ k.val := hk
    have hne : n ≠ k := by rintro rfl; omega
    exact (hnode k (by omega) hkw).trans (nodeAt_setNode_ne _ _ hne)
  rw [treeAt_of_internal (by omega) (by rw [hat]; rfl) (by rw [hat]; exact hleft) (by rw [hat]; exact hright), hat]
  rfl

/-- The new Internal node, the tree of its left child, and that of its right child make the tree of the node. -/
theorem reads_internal (ho : Opens s n u) (hl : Reads l u i v) (hr : Reads r (setLeft n i v) j w) :
    Reads (.internal x l r) s n (setRight n j w) where
  frame := ho.frame.trans (hl.frame.trans (HeaderFrame.trans (t := setLeft n i v) rfl (hr.frame.trans rfl)))
  bits := by
    have hbitsr : remaining v = r.ser ++ remaining w := hr.bits
    rw [ho.bits, hl.bits, hbitsr, SymbolTree.ser, List.cons_append, List.append_assoc]
    rfl
  index := ho.index
  nodeCnt := by
    have hcntr : w.nodeCnt.val = v.nodeCnt.val + (r.leaves + r.internals) := hr.nodeCnt
    change w.nodeCnt.val = _
    rw [hcntr, hl.nodeCnt, ho.nodeCnt, SymbolTree.leaves, SymbolTree.internals]
    omega
  intCnt := by
    have hintr : w.intCnt.val = v.intCnt.val + r.internals := hr.intCnt
    change w.intCnt.val = _
    rw [hintr, hl.intCnt, ho.intCnt, SymbolTree.internals]
    omega
  seen := by
    have hleft : Marks l.values s (setLeft n i v) := fun y => by rw [← ho.seen]; exact hl.seen y
    exact hleft.append hr.seen
  below := fun k hk => by
    have hne : n ≠ k := by rintro rfl; rw [ho.index] at hk; exact lt_irrefl _ hk
    have hku : k.val < u.nodeCnt.val := by rw [ho.nodeCnt]; omega
    have hkv : k.val < v.nodeCnt.val := by rw [hl.nodeCnt]; omega
    rw [nodeAt_linked_old hr hne hkv, hl.below k hku, ho.below k hk]
  tree := standsFrom_internal ho hl hr

end Internal

/-! ### One call of HDR.DES -/

theorem took_of_fetchNode {s t : State} {k : NodeToken} (h : fetchNode s = (some k, t)) :
    ∃ tag tail, tail.length = tokenTail tag ∧ k = nodeToken tag tail ∧ Took (tag :: tail) s t := by
  obtain ⟨tag, tail, hlen, hk, hbits⟩ := remaining_of_fetchNode h
  obtain rfl : (fetchNode s).2 = t := congrArg Prod.snd h
  exact ⟨tag, tail, hlen, hk, hbits, fetchNode_frame s⟩

theorem fetchNode_took {s : State} {tag : Bool} {tail z : BitString} (hlen : tail.length = tokenTail tag)
    (h : remaining s = tag :: (tail ++ z)) : ∃ t, fetchNode s = (some (nodeToken tag tail), t) ∧ Took (tag :: tail) s t := by
  obtain ⟨t, ht, rfl⟩ := fetchNode_of_token hlen h
  obtain rfl : (fetchNode s).2 = t := congrArg Prod.snd ht
  exact ⟨_, ht, h, fetchNode_frame s⟩

theorem deserialize_of_eof {s t : State} (d : Nat) (h : fetchNode s = (none, t)) :
    deserialize d s = .raised (raise .truncatedHeader t) := by
  unfold deserialize
  rw [h]

theorem deserialize_of_leaf {s t : State} {v : BitVec 9} (d : Nat) (h : fetchNode s = (some (.leaf v), t)) :
    deserialize d s = makeLeaf v t := by
  unfold deserialize
  rw [h]

theorem deserialize_zero_of_internal {s t : State} (h : fetchNode s = (some .internal, t)) :
    deserialize 0 s = (makeInternal t).bind fun _ _ => .stop .walkTooDeep := by
  unfold deserialize
  rw [h]

/-- The two calls HDR.DES makes for a new Internal node `n`, and the links (R177). -/
def readChildren (d : Nat) (n : NodeIx) (s : State) : Res NodeIx :=
  (deserialize d s).bind fun i t => (deserialize d (setLeft n i t)).bind fun j u => .ok n (setRight n j u)

theorem deserialize_succ_of_internal {s t : State} (d : Nat) (h : fetchNode s = (some .internal, t)) :
    deserialize (d + 1) s = (makeInternal t).bind (readChildren d) := by
  unfold deserialize
  rw [h]
  rfl

/-- The 9-bit word of a leaf value's bits is the value (R93). -/
theorem toNat_leafBits (y : Sym) : (BitVec.ofNat 9 (numeral (leafBits y))).toNat = y.val := by
  have hy : y.val < 2 ^ 9 := y.isLt.trans (by decide)
  rw [leafBits, numeral_bitsOf, BitVec.toNat_ofNat, Nat.mod_mod, Nat.mod_eq_of_lt hy]

/-- Nine bits with a symbol for their numeral are the bits of its leaf value (R93). -/
theorem leafBits_of_numeral {l : BitString} {y : Sym} (hlen : l.length = 9)
    (h : (BitVec.ofNat 9 (numeral l)).toNat = y.val) : leafBits y = l := by
  rw [leafBits, ← h, bitsOf_ofNat_numeral hlen]

/-- What HDR.DES accepts is a leaf with a new value, or an Internal node with what its two calls accept (R177). -/
theorem deserialize_cases {d : Nat} {s t : State} {n : NodeIx} (h : deserialize d s = .ok n t) :
    (∃ y, s.seen.get y = false ∧ Reads (.leaf y 0) s n t) ∨
    ∃ e m u, d = e + 1 ∧ Opens s m u ∧ readChildren e m u = .ok n t := by
  rcases hf : fetchNode s with ⟨_ | k, u⟩
  · cases (deserialize_of_eof d hf).symm.trans h
  obtain ⟨tag, tail, hlen, rfl, htook⟩ := took_of_fetchNode hf
  cases tag with
  | true =>
    obtain ⟨y, hy, hseen, hn, rfl⟩ := makeLeaf_eq_ok ((deserialize_of_leaf d hf).symm.trans h)
    obtain rfl := leafBits_of_numeral hlen hy
    rw [htook.seen] at hseen
    exact .inl ⟨y, hseen, reads_leaf 0 htook hn⟩
  | false =>
    obtain rfl := List.length_eq_zero_iff.mp hlen
    cases d with
    | zero =>
      obtain ⟨_, _, -, hstop⟩ := bind_eq_ok.mp ((deserialize_zero_of_internal hf).symm.trans h)
      cases hstop
    | succ e =>
      obtain ⟨m, v, hmake, hrest⟩ := bind_eq_ok.mp ((deserialize_succ_of_internal e hf).symm.trans h)
      obtain ⟨hint, hm, rfl⟩ := makeInternal_eq_ok hmake
      exact .inr ⟨e, m, _, rfl, opens_internal htook hint hm, hrest⟩

theorem readChildren_eq_ok {d : Nat} {m n : NodeIx} {s t : State} (h : readChildren d m s = .ok n t) :
    n = m ∧ ∃ i u j v, deserialize d s = .ok i u ∧ deserialize d (setLeft m i u) = .ok j v ∧ t = setRight m j v := by
  obtain ⟨i, u, hl, hrest⟩ := bind_eq_ok.mp h
  obtain ⟨j, v, hr, hlast⟩ := bind_eq_ok.mp hrest
  obtain ⟨rfl, rfl⟩ := Res.ok.inj hlast
  exact ⟨rfl, i, u, j, v, hl, hr, rfl⟩

/-- A leaf with a new value is read, where there is room. -/
theorem deserialize_leaf {s : State} {y : Sym} {z : BitString} (d w : Nat)
    (hbits : remaining s = (SymbolTree.leaf y w).ser ++ z) (hseen : s.seen.get y = false) (hcnt : s.nodeCnt.val < 513) :
    ∃ n t, deserialize d s = .ok n t ∧ Reads (.leaf y w) s n t := by
  obtain ⟨t, hf, htook⟩ := fetchNode_took (tag := true) (bitsOf_length 9 y.val) hbits
  rw [← htook.seen] at hseen
  rw [← htook.nodeCnt] at hcnt
  exact ⟨⟨_, hcnt⟩, _, (deserialize_of_leaf d hf).trans (makeLeaf_of_new (toNat_leafBits y) hseen rfl),
    reads_leaf w htook rfl⟩

/-- An Internal node is made, where there is room, and its children are read. -/
theorem deserialize_internal {s : State} {z : BitString} (hbits : remaining s = false :: z)
    (hint : s.intCnt.val < 256) (hcnt : s.nodeCnt.val < 513) :
    ∃ n t, Opens s n t ∧ ∀ d, deserialize (d + 1) s = readChildren d n t := by
  obtain ⟨t, hf, htook⟩ := fetchNode_took (tag := false) (tail := []) rfl hbits
  rw [← htook.intCnt] at hint
  rw [← htook.nodeCnt] at hcnt
  refine ⟨⟨_, hcnt⟩, _, opens_internal htook hint rfl, fun d => ?_⟩
  rw [deserialize_succ_of_internal d hf, makeInternal_of_room (n := ⟨_, hcnt⟩) hint rfl, bind_ok]

end Sys2Proof.Proofs
end

section
/-! HDR.DES and the bits of trees (R181, R182, R184): it accepts nothing else, reads every tree that fits, and reports a
header cut short. -/

namespace Sys2Proof.Proofs

open Sys2Proof.Machine Sys2Proof.Laws

/-! ### What is accepted is a tree (R181) -/

theorem newValues_internal_of_reads {x : Nat} {l r : SymbolTree} {s u v : State} {n i : NodeIx} (ho : Opens s n u)
    (hl : Reads l u i v) :
    NewValues (.internal x l r) s ↔ NewValues l u ∧ NewValues r (setLeft n i v) :=
  (newValues_congr ho.seen).symm.trans (newValues_internal (t := setLeft n i v) hl.seen)

/-- HDR.DES reads a tree without weights, its values new and none twice. -/
theorem reads_of_deserialize {d : Nat} {s t : State} {n : NodeIx} (h : deserialize d s = .ok n t) :
    ∃ T, T.unweighted = T ∧ NewValues T s ∧ Reads T s n t := by
  induction d generalizing s t n with
  | zero =>
    obtain ⟨y, hseen, hreads⟩ | ⟨e, _, _, he, -⟩ := deserialize_cases h
    · exact ⟨.leaf y 0, rfl, newValues_leaf hseen, hreads⟩
    · cases he
  | succ d ih =>
    obtain ⟨y, hseen, hreads⟩ | ⟨e, m, u, he, hopens, hrest⟩ := deserialize_cases h
    · exact ⟨.leaf y 0, rfl, newValues_leaf hseen, hreads⟩
    · cases he
      obtain ⟨rfl, i, v, j, w, hl, hr, rfl⟩ := readChildren_eq_ok hrest
      obtain ⟨l, hlw, hlnew, hlreads⟩ := ih hl
      obtain ⟨r, hrw, hrnew, hrreads⟩ := ih hr
      refine ⟨.internal 0 l r, ?_, (newValues_internal_of_reads hopens hlreads).mpr ⟨hlnew, hrnew⟩,
        reads_internal hopens hlreads hrreads⟩
      rw [SymbolTree.unweighted, hlw, hrw]

/-- The tree read stands in the node memory for a walk of 256 levels (R180). -/
theorem Reads.treeAt {T : SymbolTree} {s t : State} {n : NodeIx} (h : Reads T s n t) (hT : T.height ≤ maxDepth) :
    treeAt t maxDepth n = some T.unweighted :=
  h.tree t maxDepth le_rfl (fun _ _ _ => rfl) ((height_unweighted T).trans_le hT)

theorem treeAt_setRet (r : Ret) (s : State) (d : Nat) (i : NodeIx) :
    treeAt { s with ret := r } d i = treeAt s d i :=
  treeAt_congr (s := s) (t := { s with ret := r }) rfl rfl d i

theorem exec_hdrDes (s : State) :
    exec .hdrDes s = (deserialize maxDepth s).toOutcome fun n t => { t with ret := .node n } := rfl

/-- A call that meets the end of the source or a leaf is work of D_HEADER; what is left is an Internal node. -/
theorem runsIn_deserialize_of {d : Nat} {s : State}
    (h : ∀ t, fetchNode s = (some .internal, t) → RunsIn .dHeader t (deserialize d s)) :
    RunsIn .dHeader s (deserialize d s) := by
  have hfetch := worksIn_fetchNode .dHeader s
  rcases hf : fetchNode s with ⟨_ | _ | v, t⟩
  all_goals rw [hf] at hfetch
  · rw [deserialize_of_eof d hf]
    exact .raised hfetch
  · exact (h t hf).of_worksIn hfetch
  · rw [deserialize_of_leaf d hf]
    exact (runsIn_makeLeaf v t).of_worksIn hfetch

theorem runsIn_deserialize (d : Nat) (s : State) : RunsIn .dHeader s (deserialize d s) := by
  have hlink (p : NodeIx) (x : Node) (t : State) : WorksIn .dHeader t (setNode p x t) := worksIn_setNode (.inr rfl) p x t
  induction d generalizing s with
  | zero =>
    refine runsIn_deserialize_of fun t hf => ?_
    rw [deserialize_zero_of_internal hf]
    exact (runsIn_makeInternal t).bind fun _ _ => .stop
  | succ d ih =>
    refine runsIn_deserialize_of fun t hf => ?_
    rw [deserialize_succ_of_internal d hf]
    exact (runsIn_makeInternal t).bind fun n u => (ih u).bind fun i v =>
      .of_worksIn (hlink n _ v) ((ih _).bind fun j w => .ok (hlink n _ w))

theorem RunsIn.eq_raise {α : Type} {p : Phase} {s t : State} {r : Res α} (h : RunsIn p s r) (hr : r = .raised t) :
    ∃ e u, t = raise e u := by
  cases h with
  | ok => cases hr
  | raised _ => exact ⟨_, _, (Res.raised.inj hr).symm⟩
  | stop => cases hr

/-- Settles O44: a result is a tree read; the counts say how many leaves it has, and INT_CNT bounds its height. -/
theorem acceptedHeadersAreTrees : Obligations.AcceptedHeadersAreTrees := by
  intro s t n hnode hint hseen hexec hret
  rw [exec_hdrDes, toOutcome_eq_next] at hexec
  obtain ⟨m, u, hdes, rfl⟩ | hraised := hexec
  · obtain rfl : m = n := Ret.node.inj hret
    obtain ⟨T, hweights, hnew, hreads⟩ := reads_of_deserialize hdes
    have hinternals : u.intCnt.val = T.internals := by rw [hreads.intCnt, hint]; exact Nat.zero_add _
    have hleaves := leaves_eq_internals_succ T
    have hbound := u.intCnt.isLt
    have htree := hreads.treeAt ((height_le_internals T).trans (show T.internals ≤ maxDepth by rw [maxDepth]; omega))
    rw [hweights] at htree
    refine ⟨T, (treeAt_setRet _ _ _ _).trans htree, hnew.1, hreads.bits, ?_, by omega, ?_⟩
    · rw [hleaves, ← hinternals]
    · refine hreads.nodeCnt.trans ?_
      rw [hnode]
      exact Nat.zero_add _
  · obtain ⟨e, v, rfl⟩ := (runsIn_deserialize maxDepth s).eq_raise hraised
    cases hret

/-! ### Every tree that fits is read (R182) -/

/-- `T` can be read from `s` on without a check failing: its values are new, and there is room for its nodes
(R179, R180, R27). -/
structure Fits (T : SymbolTree) (s : State) : Prop where
  values : NewValues T s
  internals : s.intCnt.val + T.internals ≤ 256
  nodes : s.nodeCnt.val + (T.leaves + T.internals) ≤ 513

section Internal

variable {x : Nat} {l r : SymbolTree} {s u v : State} {n i : NodeIx}

theorem Fits.room (h : Fits (.internal x l r) s) : s.intCnt.val < 256 ∧ s.nodeCnt.val < 513 := by
  obtain ⟨-, hint, hnodes⟩ := h
  rw [SymbolTree.internals] at hint hnodes
  omega

theorem Fits.left (h : Fits (.internal x l r) s) (ho : Opens s n u) : Fits l u := by
  obtain ⟨⟨hdistinct, hnew⟩, hint, hnodes⟩ := h
  rw [SymbolTree.internals] at hint hnodes
  rw [SymbolTree.leaves] at hnodes
  refine ⟨⟨(distinct_internal.mp hdistinct).1, fun y hy => ?_⟩, ?_, ?_⟩
  · rw [ho.seen]
    exact hnew y (List.mem_append_left _ hy)
  · rw [ho.intCnt]; omega
  · rw [ho.nodeCnt]; omega

theorem Fits.right (h : Fits (.internal x l r) s) (ho : Opens s n u) (hl : Reads l u i v) : Fits r (setLeft n i v) := by
  obtain ⟨hvalues, hint, hnodes⟩ := h
  rw [SymbolTree.internals] at hint hnodes
  rw [SymbolTree.leaves] at hnodes
  refine ⟨((newValues_internal_of_reads ho hl).mp hvalues).2, ?_, ?_⟩
  · change v.intCnt.val + _ ≤ _
    rw [hl.intCnt, ho.intCnt]; omega
  · change v.nodeCnt.val + _ ≤ _
    rw [hl.nodeCnt, ho.nodeCnt]; omega

end Internal

theorem Fits.leaf {y : Sym} {w : Nat} {s : State} (h : Fits (.leaf y w) s) :
    s.seen.get y = false ∧ s.nodeCnt.val < 513 :=
  ⟨h.values.2 y (List.mem_singleton_self y), h.nodes⟩

/-- The bits of a tree that fits are read as the tree, whatever follows them. -/
theorem deserialize_of_ser {T : SymbolTree} {s : State} {d : Nat} {z : BitString} (hbits : remaining s = T.ser ++ z)
    (hfits : Fits T s) (hd : T.height ≤ d) : ∃ n t, deserialize d s = .ok n t ∧ Reads T s n t := by
  induction T generalizing s d z with
  | leaf y w =>
    obtain ⟨hseen, hcnt⟩ := hfits.leaf
    exact deserialize_leaf d w hbits hseen hcnt
  | internal x l r ihl ihr =>
    obtain ⟨hint, hcnt⟩ := hfits.room
    obtain ⟨e, rfl⟩ := Nat.exists_eq_succ_of_ne_zero (Nat.ne_zero_of_lt hd)
    obtain ⟨hle, hre⟩ := max_le_iff.mp (Nat.le_of_succ_le_succ hd)
    obtain ⟨n, u, ho, hdes⟩ := deserialize_internal hbits hint hcnt
    have hbitsl : remaining u = l.ser ++ (r.ser ++ z) := by
      rw [SymbolTree.ser, ho.bits, List.cons_append, List.append_assoc] at hbits
      exact List.tail_eq_of_cons_eq hbits
    obtain ⟨i, v, hdesl, hl⟩ := ihl hbitsl (hfits.left ho) hle
    obtain ⟨j, w, hdesr, hr⟩ := ihr (s := setLeft n i v) (List.append_cancel_left (hl.bits.symm.trans hbitsl))
      (hfits.right ho hl) hre
    refine ⟨n, setRight n j w, ?_, reads_internal ho hl hr⟩
    rw [hdes, readChildren, hdesl, bind_ok, hdesr, bind_ok]

/-- After HDR.INIT every tree without repeated values fits, and is not too deep (R180). -/
theorem fits_after_init {T : SymbolTree} {s : State} (hT : T.distinct) (hnode : s.nodeCnt = 0) (hint : s.intCnt = 0)
    (hseen : ∀ y, s.seen.get y = false) : Fits T s ∧ T.height ≤ maxDepth := by
  have hleaves : T.leaves ≤ 257 := by
    rw [← length_values]
    exact (List.Nodup.length_le_card hT).trans_eq (Fintype.card_fin 257)
  have hcount := leaves_eq_internals_succ T
  refine ⟨⟨⟨hT, fun y _ => hseen y⟩, ?_, ?_⟩, (height_le_internals T).trans (by rw [maxDepth]; omega)⟩
  · rw [hint]; exact (Nat.zero_add _).trans_le (by omega)
  · rw [hnode]; exact (Nat.zero_add _).trans_le (by omega)

/-- Settles O43: a tree without repeated values fits after HDR.INIT, so it is read. -/
theorem headerRoundTrip : Obligations.HeaderRoundTrip := by
  intro s T z hT hnode hint hseen hbits
  obtain ⟨hfits, hheight⟩ := fits_after_init hT hnode hint hseen
  obtain ⟨n, t, hdes, hreads⟩ := deserialize_of_ser hbits hfits hheight
  have hindex : n = 0 := Fin.ext (by rw [hreads.index, hnode]; rfl)
  refine ⟨{ t with ret := .node n }, by rw [exec_hdrDes, hdes]; rfl, by rw [hindex], ?_, ?_, ?_, ?_, fun y => ?_, ?_⟩
  · rw [← hindex]
    exact (treeAt_setRet _ _ _ _).trans (hreads.treeAt hheight)
  · exact List.append_cancel_left (hreads.bits.symm.trans hbits)
  · rw [hreads.nodeCnt, hnode]; exact Nat.zero_add _
  · rw [hreads.intCnt, hint]; exact Nat.zero_add _
  · refine (hreads.seen y).trans ?_
    rw [hseen y]
    simp
  · rw [hreads.frame]

/-! ### A header cut short (R184) -/

/-- A token cut short is none. -/
theorem noToken_of_cut {tag b : Bool} {tail l z : BitString} (hlen : tail.length = tokenTail tag)
    (h : tag :: tail = l ++ b :: z) : NoToken l := by
  rintro tag' tail' rfl
  obtain ⟨rfl, htail⟩ := List.cons.inj h
  rw [← hlen, htail, List.append_eq, List.length_append, List.length_cons]
  omega

/-- Two strings cut short together are cut in the first, or in the second after the whole of the first. -/
theorem cut_append {l m p z : BitString} {b : Bool} (h : l ++ m = p ++ b :: z) :
    (∃ z', l = p ++ b :: z') ∨ ∃ q, p = l ++ q ∧ m = q ++ b :: z := by
  obtain ⟨q, hp, hm⟩ | ⟨q, hl, hz⟩ := List.append_eq_append_iff.mp h
  · exact .inr ⟨q, hp, hm⟩
  · cases q with
    | nil => exact .inr ⟨[], by rw [hl, List.append_nil, List.append_nil], hz.symm⟩
    | cons c z' =>
      obtain ⟨rfl, -⟩ := List.cons.inj hz
      exact .inl ⟨z', hl⟩

theorem deserialize_of_noToken {s : State} (d : Nat) (h : NoToken (remaining s)) :
    ∃ t, deserialize d s = .raised (raise .truncatedHeader t) ∧ HeaderFrame s t := by
  obtain ⟨t, hf⟩ := fetchNode_of_noToken h
  obtain rfl : (fetchNode s).2 = t := congrArg Prod.snd hf
  refine ⟨_, deserialize_of_eof d hf, ?_⟩
  unfold HeaderFrame
  rw [fetchNode_frame]

/-- Where the bits of a tree that fits are cut short, HDR.DES meets the end of the source inside a token. -/
theorem deserialize_of_cut {T : SymbolTree} {s : State} {d : Nat} {b : Bool} {z : BitString}
    (hbits : T.ser = remaining s ++ b :: z) (hfits : Fits T s) (hd : T.height ≤ d) :
    ∃ t, deserialize d s = .raised (raise .truncatedHeader t) ∧ HeaderFrame s t := by
  induction T generalizing s d z with
  | leaf y w => exact deserialize_of_noToken d (noToken_of_cut (tag := true) (bitsOf_length 9 y.val) hbits)
  | internal x l r ihl ihr =>
    cases hs : remaining s with
    | nil => exact deserialize_of_noToken d (hs ▸ nofun)
    | cons c p =>
      rw [hs] at hbits
      obtain ⟨rfl, hcut⟩ := List.cons.inj hbits
      obtain ⟨hint, hcnt⟩ := hfits.room
      obtain ⟨e, rfl⟩ := Nat.exists_eq_succ_of_ne_zero (Nat.ne_zero_of_lt hd)
      obtain ⟨hle, hre⟩ := max_le_iff.mp (Nat.le_of_succ_le_succ hd)
      obtain ⟨n, u, ho, hdes⟩ := deserialize_internal hs hint hcnt
      obtain rfl : remaining u = p := List.tail_eq_of_cons_eq (ho.bits.symm.trans hs)
      obtain ⟨z', hl⟩ | ⟨q, hu, hr⟩ := cut_append hcut
      · obtain ⟨t, hraised, hframe⟩ := ihl hl (hfits.left ho) hle
        exact ⟨t, by rw [hdes, readChildren, hraised, bind_raised], ho.frame.trans hframe⟩
      · obtain ⟨i, v, hdesl, hl⟩ := deserialize_of_ser hu (hfits.left ho) hle
        obtain rfl : remaining v = q := List.append_cancel_left (hl.bits.symm.trans hu)
        obtain ⟨t, hraised, hframe⟩ := ihr (s := setLeft n i v) hr (hfits.right ho hl) hre
        refine ⟨t, by rw [hdes, readChildren, hdesl, bind_ok, hraised, bind_raised], ?_⟩
        exact ho.frame.trans (hl.frame.trans (HeaderFrame.trans (t := setLeft n i v) rfl hframe))

/-- Settles O45: the error is the one of the token cut short, and no byte is put. -/
theorem truncatedHeaderReported : Obligations.TruncatedHeaderReported := by
  intro s T b z hT hnode hint hseen hbits
  obtain ⟨hfits, hheight⟩ := fits_after_init hT hnode hint hseen
  obtain ⟨t, hdes, hframe⟩ := deserialize_of_cut hbits hfits hheight
  refine ⟨raise .truncatedHeader t, by rw [exec_hdrDes, hdes]; rfl, rfl, rfl, ?_⟩
  rw [raise_out, hframe]

end Sys2Proof.Proofs
end

section
/-! A unit operation neither reads nor writes the model's own sequencing (log 3, log 7, log 11) or the host's list
(log 4): wherever in a phase the controller stands, it does the same. -/

namespace Sys2Proof.Proofs

open Sys2Proof.Machine Sys2Proof.Laws

/-! ### A state at a place of its phase -/

/-- The controller is at the start of phase `p`, with a quiet host and no call unfinished. -/
structure AtStart (p : Phase) (s : State) : Prop where
  phase : s.phase = p
  micro : s.micro = .start
  stack : s.stack = []
  host : s.host = []

/-- `s` with the controller at a place of its phase, unfinished calls and a last result as given, and a quiet host. -/
def placed (m : Micro) (k : List Frame) (r : Ret) (s : State) : State :=
  { s with micro := m, stack := k, ret := r, host := [] }

/-- The end of an operation at that place; error entry has cleared the place already (R236, log 15). -/
def placedRes {α : Type} (m : Micro) (k : List Frame) (r : Ret) : Res α → Res α
  | .ok a s => .ok a (placed m k r s)
  | .raised s => .raised (placed .start [] .none s)
  | .stop e => .stop e

section

variable {α β : Type} (m : Micro) (k : List Frame) (r : Ret) (s : State)

theorem AtStart.placed_self {p : Phase} {s : State} (h : AtStart p s) : placed .start [] s.ret s = s := by
  rw [placed, ← h.host, ← h.micro, ← h.stack]

@[simp] theorem placed_phase : (placed m k r s).phase = s.phase := rfl

theorem raise_placed (e : ErrKind) : raise e (placed m k r s) = placed .start [] .none (raise e s) := by
  by_cases h : s.phase = .idle
  · rw [raise_idle e s h, raise_idle e (placed m k r s) h]
    rfl
  · rw [raise_working e s h, raise_working e (placed m k r s) h]
    rfl

theorem placedRes_ok (a : α) : placedRes m k r (.ok a s) = .ok a (placed m k r s) := rfl

/-- Operations in sequence do not see the place if neither does. -/
theorem placedRes_bind {f : α → State → Res β} (R : Res α)
    (hf : ∀ a t, f a (placed m k r t) = placedRes m k r (f a t)) :
    (placedRes m k r R).bind f = placedRes m k r (R.bind f) := by
  cases R with
  | ok a t => exact hf a t
  | raised t => rfl
  | stop e => rfl

/-! ### The bit channel -/

theorem getBit_placed : getBit (placed m k r s) = Prod.map id (placed m k r) (getBit s) := by
  obtain h | ⟨hcnt, b, hb⟩ | ⟨hcnt, hend⟩ := unpacker_cases s
  · rw [getBit_of_held h, getBit_of_held (s := placed m k r s) h]
    rfl
  · rw [getBit_of_fetch hcnt hb, getBit_of_fetch (s := placed m k r s) hcnt hb]
    rfl
  · rw [getBit_of_end hcnt hend, getBit_of_end (s := placed m k r s) hcnt hend]
    rfl

theorem getBits_placed (n : Nat) : getBits n (placed m k r s) = Prod.map id (placed m k r) (getBits n s) := by
  induction n generalizing s with
  | zero => rfl
  | succ n ih =>
    have hbit := getBit_placed m k r s
    rcases hs : getBit s with ⟨_ | b, t⟩
    · rw [hs] at hbit
      rw [getBits_succ_of_end n hs, getBits_succ_of_end n hbit]
      rfl
    · rw [hs] at hbit
      rw [getBits_succ_of_bit n hs, getBits_succ_of_bit n hbit, ih]
      rfl

theorem readBits_placed (n : Nat) : readBits n (placed m k r s) = Prod.map id (placed m k r) (readBits n s) := by
  rw [readBits, readBits, getBits_placed]
  rcases getBits n s with ⟨_ | l, t⟩ <;> rfl

theorem putBit_placed (b : Bool) : putBit b (placed m k r s) = placed m k r (putBit b s) := by
  rcases Nat.lt_or_ge s.wrCnt.val 7 with h | h
  · rw [putBit_of_room b h, putBit_of_room b (s := placed m k r s) h]
    rfl
  · have hfull : s.wrCnt.val = 7 := by omega
    rw [putBit_of_full b hfull, putBit_of_full b (s := placed m k r s) hfull]
    rfl

theorem putBits_placed (l : BitString) : putBits l (placed m k r s) = placed m k r (putBits l s) := by
  induction l generalizing s with
  | nil => rfl
  | cons b l ih => rw [putBits_cons, putBit_placed, ih, putBits_cons]

/-! ### The rounds of the looping phases -/

theorem countOne_placed : countOne (placed m k r s) = placedRes m k r (countOne s) := by
  rw [countOne, countOne, readBits_placed]
  rcases readBits 8 s with ⟨_ | v, t⟩
  · rfl
  · simp only [Prod.map, id, raise_placed, apply_ite (placedRes m k r)]
    rfl

theorem encodeSym_placed (y : Sym) : encodeSym y (placed m k r s) = placedRes m k r (encodeSym y s) := by
  rw [encodeSym, encodeSym, raise_placed, putBits_placed, apply_ite (placedRes m k r)]
  rfl

theorem reachLeaf_placed (y : Sym) (c : NodeIx) :
    reachLeaf y c (placed m k r s) = Prod.map id (placed m k r) (reachLeaf y c s) := by
  rw [reachLeaf, reachLeaf]
  split
  · rfl
  · rw [writeBits, show { placed m k r s with cur := c } = placed m k r { s with cur := c } from rfl, putBits_placed]
    rfl

theorem decodeEdge_placed (b : Bool) :
    decodeEdge b (placed m k r s) = Prod.map id (placed m k r) (decodeEdge b s) := by
  cases hkind : (nodeAt s (childAt s b s.cur)).kind with
  | internal =>
    rw [decodeEdge_internal hkind, decodeEdge_internal (s := placed m k r s) hkind]
    rfl
  | leaf =>
    rw [decodeEdge_leaf hkind, decodeEdge_leaf (s := placed m k r s) hkind]
    exact reachLeaf_placed m k r s _ _

theorem decodeStep_placed : decodeStep (placed m k r s) = placedRes m k r (decodeStep s) := by
  rw [decodeStep, decodeStep, getBit_placed]
  rcases getBit s with ⟨_ | b, t⟩
  · exact congrArg Res.raised (raise_placed m k r t _)
  · simp only [Prod.map, id, decodeEdge_placed]
    rfl

/-! ### The header's tokens -/

theorem fetchNode_placed : fetchNode (placed m k r s) = Prod.map id (placed m k r) (fetchNode s) := by
  rw [fetchNode, fetchNode, getBit_placed]
  rcases getBit s with ⟨_ | tag, t⟩
  · rfl
  · simp only [Prod.map, id, getBits_placed]
    rcases getBits (tokenTail tag) t with ⟨_ | tail, u⟩ <;> rfl

theorem newNode_placed (x : Node) : newNode x (placed m k r s) = placedRes m k r (newNode x s) := by
  rw [newNode, newNode, apply_dite (placedRes m k r)]
  rfl

theorem makeInternal_placed : makeInternal (placed m k r s) = placedRes m k r (makeInternal s) := by
  rw [makeInternal, makeInternal, raise_placed, apply_dite (placedRes m k r)]
  exact dite_congr rfl (fun h => newNode_placed m k r (countInternal s h) _) fun _ => rfl

theorem makeLeaf_placed (v : BitVec 9) : makeLeaf v (placed m k r s) = placedRes m k r (makeLeaf v s) := by
  rw [makeLeaf, makeLeaf, raise_placed]
  cases symOfLeaf v with
  | none => rfl
  | some y =>
    dsimp only
    rw [apply_ite (placedRes m k r)]
    exact if_congr Iff.rfl rfl (newNode_placed m k r (markSeen y s) _)

/-- A call of HDR.DES that meets the end of the source or a leaf does not see the place; what is left is an Internal
node. -/
theorem deserialize_placed_of {d : Nat} (h : ∀ t, fetchNode s = (some .internal, t) →
      fetchNode (placed m k r s) = (some .internal, placed m k r t) →
      deserialize d (placed m k r s) = placedRes m k r (deserialize d s)) :
    deserialize d (placed m k r s) = placedRes m k r (deserialize d s) := by
  have hfetch := fetchNode_placed m k r s
  rcases hf : fetchNode s with ⟨_ | _ | v, t⟩ <;> rw [hf] at hfetch
  · rw [deserialize_of_eof d hf, deserialize_of_eof d hfetch]
    exact congrArg Res.raised (raise_placed m k r t _)
  · exact h t hf hfetch
  · rw [deserialize_of_leaf d hf, deserialize_of_leaf d hfetch]
    exact makeLeaf_placed m k r t v

theorem deserialize_placed (d : Nat) : deserialize d (placed m k r s) = placedRes m k r (deserialize d s) := by
  induction d generalizing s with
  | zero =>
    refine deserialize_placed_of m k r s fun t hf hfetch => ?_
    rw [deserialize_zero_of_internal hf, deserialize_zero_of_internal hfetch, makeInternal_placed]
    exact placedRes_bind m k r _ fun _ _ => rfl
  | succ d ih =>
    refine deserialize_placed_of m k r s fun t hf hfetch => ?_
    rw [deserialize_succ_of_internal d hf, deserialize_succ_of_internal d hfetch, makeInternal_placed]
    refine placedRes_bind m k r _ fun n u => ?_
    rw [readChildren, readChildren, ih]
    refine placedRes_bind m k r _ fun i v => ?_
    rw [show setLeft n i (placed m k r v) = placed m k r (setLeft n i v) from rfl, ih]
    exact placedRes_bind m k r _ fun _ _ => rfl

end

end Sys2Proof.Proofs
end

section
/-! Single steps against the meaning of a phase (R190, R205, R271; log 3): a round of a looping phase is one step or
two, and the phase ends where its rounds end. -/

namespace Sys2Proof.Proofs

open Sys2Proof.Machine Sys2Proof.Laws

/-! ### What a step runs -/

theorem step_rest {s : State} (hhost : s.host = []) (hp : s.phase = .idle ∨ s.phase = .done ∨ s.phase = .error) :
    step s = .next s := by
  have hfetch : fetch s = .rest := by rcases hp with hp | hp | hp <;> simp [fetch, hp]
  rw [step_quiet hhost, controllerTurn, hfetch]

/-- Settles O5: a quiet host and one that waits leave the step to the controller. -/
theorem stepRunsFetchedOperation : Obligations.StepRunsFetchedOperation := by
  intro s t i
  refine ⟨fun hhost hfetch => ?_, step_rest, fun rest hhost hfetch => ?_⟩
  · rw [step_quiet hhost, controllerTurn_op hfetch]
  · rw [step_host hhost]
    exact controllerTurn_op hfetch

/-! ### Runs -/

/-- One or more steps lead from the first state to the second. -/
abbrev Reaches : State → State → Prop := Relation.TransGen fun s t => step s = .next t

theorem runSteps_succ {s t : State} (h : step s = .next t) (k : Nat) : runSteps (k + 1) s = runSteps k t := by
  have hcore : core.step s = .next t := h
  simp only [runSteps, Host.Core.run, hcore]
  rfl

theorem Reaches.exists_runSteps {s t : State} (h : Reaches s t) : ∃ k, runSteps k s = .next t := by
  induction h using Relation.TransGen.head_induction_on with
  | single h => exact ⟨1, runSteps_succ h 0⟩
  | head h _ ih =>
    obtain ⟨k, hk⟩ := ih
    exact ⟨k + 1, (runSteps_succ h k).trans hk⟩

/-- A run depends on what its first step does only. -/
theorem Reaches.of_step_eq {s s' t : State} (h : Reaches s' t) (hstep : step s = step s') : Reaches s t := by
  obtain ⟨u, hu, hrest⟩ := Relation.TransGen.head'_iff.mp h
  exact Relation.TransGen.head'_iff.mpr ⟨u, hstep.trans hu, hrest⟩

/-- The step of a phase performed whole is its meaning (log 3). -/
theorem step_whole {s : State} {i : Instr} (hhost : s.host = []) (h : wholePhase s.phase = some i) :
    step s = exec i s := by
  rw [step_quiet hhost, controllerTurn_whole h]

/-- The first step of a phase with a loop: an operation without an error, and on into the loop. -/
theorem step_enter {p : Phase} {s u : State} {i : Instr} (hs : AtStart p s) (hu : AtStart p u)
    (hfetch : fetch s = .op i s) (hexec : exec i s = .next u) (hret : u.ret = s.ret)
    (hfollow : follow s u = { u with micro := .loop }) : step s = .next (placed .loop [] s.ret u) := by
  have hne : u.phase ≠ .error := fun he => by
    have hrest : fetch s = .rest := by simp [fetch, hs.phase.trans (hu.phase.symm.trans he)]
    cases hrest.symm.trans hfetch
  rw [step_quiet hs.host, controllerTurn_op hfetch, hexec, after_next, if_neg hne, hfollow, placed, ← hret, ← hu.stack,
    ← hu.host]

/-! ### Rounds -/

/-- An operation of a working phase and the transfer after it: the transfer is made at the normal end only (R236). -/
theorem after_placedRes {α : Type} {e : ErrKind} {m : Micro} {k : List Frame} {r : Ret} {s : State} {R : Res α}
    {g : α → State → State} (hk : Keeps e s R) (hp : s.phase ≠ .error) (hg : ∀ a u, (g a u).phase = u.phase)
    (f : State → State) :
    after ((placedRes m k r R).toOutcome g) f = (placedRes m k r R).toOutcome fun a u => f (g a u) := by
  cases hk with
  | @ok a t h =>
    have hne : (g a (placed m k r t)).phase ≠ .error := by rw [hg, placed_phase, h.phase]; exact hp
    exact (after_next _ f).trans (congrArg _ (if_neg hne))
  | raised h => exact (after_next _ f).trans (congrArg _ (if_pos (by simp)))
  | stop => rfl

/-- `body` is a round of phase `p`, which starts with the controller at `m`: from there the steps come to its end. The
answer `go` leads to the next round, the other to phase `q`. -/
structure IsRound (p q : Phase) (m : Micro) (go : Bool) (body : State → Res Bool) : Prop where
  placed : ∀ k r s, body (placed .start k r s) = placedRes .start k r (body s)
  phase : ∀ {s b t}, body s = .ok b t → t.phase = s.phase
  again : ∀ {s t}, s.phase = p → body s = .ok go t →
    ∀ r, ∃ r', Reaches (Proofs.placed m [] r s) (Proofs.placed m [] r' t)
  leaves : ∀ {s b t}, s.phase = p → b ≠ go → body s = .ok b t →
    ∀ r, Reaches (Proofs.placed m [] r s) (goto q (Proofs.placed m [] r t))
  raises : ∀ {s t}, s.phase = p → body s = .raised t →
    ∀ r, Reaches (Proofs.placed m [] r s) (Proofs.placed .start [] .none t)

/-- A loop of rounds, performed whole, ends where the steps come to. -/
theorem IsRound.reaches {p q : Phase} {m : Micro} {go : Bool} {body : State → Res Bool} (h : IsRound p q m go body)
    {loop : Nat → State → Res Unit} (hzero : ∀ s, loop 0 s = .stop .loopUnbounded)
    (hsucc : ∀ n s, loop (n + 1) s = (body s).bind fun b t => if b = go then loop n t else .ok () t)
    {n : Nat} {s t : State} {r : Ret} (hs : s.phase = p)
    (ht : (loop n (Proofs.placed .start [] r s)).toOutcome (fun _ u => goto q u) = .next t) (r' : Ret) :
    Reaches (Proofs.placed m [] r' s) t := by
  induction n generalizing s r' with
  | zero => rw [hzero] at ht; cases ht
  | succ n ih =>
    rw [hsucc, h.placed] at ht
    cases hbody : body s with
    | ok b u =>
      rw [hbody, placedRes_ok, bind_ok] at ht
      by_cases hb : b = go
      · rw [if_pos hb] at ht
        obtain ⟨r'', hround⟩ := h.again hs (hb ▸ hbody) r'
        exact hround.trans (ih ((h.phase hbody).trans hs) ht r'')
      · rw [if_neg hb] at ht
        obtain rfl := Host.Outcome.next.inj ht
        exact h.leaves hs hb hbody r'
    | raised u =>
      rw [hbody] at ht
      obtain rfl := Host.Outcome.next.inj ht
      exact h.raises hs hbody r'
    | stop e => rw [hbody] at ht; cases ht

theorem Keeps.phase {α : Type} {e : ErrKind} {s t : State} {a : α} {R : Res α} (h : Keeps e s R) (hR : R = .ok a t) :
    t.phase = s.phase := by
  subst hR
  cases h with | ok h => exact h.phase

theorem RunsIn.phase {α : Type} {p : Phase} {s t : State} {a : α} {R : Res α} (h : RunsIn p s R)
    (hR : R = .ok a t) : t.phase = s.phase := by
  subst hR
  cases h with | ok h => exact h.phase

/-! ### C_COUNT (R191) -/

theorem step_countOne {s : State} (hp : s.phase = .cCount) (k : List Frame) (r : Ret) :
    step (placed .loop k r s) = (placedRes .loop k r (countOne s)).toOutcome fun more u =>
      if more then { u with ret := .more } else goto .cBuild u := by
  have hfetch : fetch (placed .loop k r s) = .op .fcCount (placed .loop k r s) := by simp [fetch, placed, hp]
  rw [step_quiet rfl, controllerTurn_op hfetch, exec_fcCount, countOne_placed,
    after_placedRes (keeps_countOne s) (by simp [hp])]
  · congr 1
    funext more u
    cases more <;> simp [follow, placed, hp, goto]
  · exact fun _ _ => rfl

theorem isRound_countOne : IsRound .cCount .cBuild .loop true countOne where
  placed k r s := countOne_placed .start k r s
  phase h := (keeps_countOne _).phase h
  again hp h r := ⟨.more, .single (by rw [step_countOne hp, h]; rfl)⟩
  leaves hp hb h r := by
    obtain rfl := (Bool.eq_false_iff.mpr hb)
    exact .single (by rw [step_countOne hp, h]; rfl)
  raises hp h r := .single (by rw [step_countOne hp, h]; rfl)

theorem countPhase_reaches {s t : State} (hs : AtStart .cCount s) (h : exec .cCount s = .next t) :
    Reaches s t := by
  have hclear : AtStart .cCount (clearCounts s) := ⟨hs.phase, hs.micro, hs.stack, hs.host⟩
  have hfirst : step s = .next (placed .loop [] s.ret (clearCounts s)) :=
    step_enter (i := .fcClear) hs hclear (by simp [fetch, hs.phase, hs.micro]) rfl rfl
      (by simp [follow, hs.phase, hs.micro])
  have hself : placed .start [] s.ret (clearCounts s) = clearCounts s := hclear.placed_self
  change (countLoop _ (clearCounts s)).toOutcome _ = _ at h
  rw [← hself] at h
  exact .head hfirst (isRound_countOne.reaches (fun _ => rfl) (fun _ _ => rfl) hclear.phase h _)

/-! ### C_BODY (R198) -/

/-- One round of C_BODY: a byte is read and its code written (R198); the answer is whether there was one. -/
def encodeOne (s : State) : Res Bool :=
  match readBits 8 s with
  | (none, t) => .ok false t
  | (some v, t) => (encodeSym (symOfByte (v.setWidth 8)) t).bind fun _ u => .ok true u

theorem encodeLoop_succ (n : Nat) (s : State) :
    encodeLoop (n + 1) s = (encodeOne s).bind fun more t => if more then encodeLoop n t else .ok () t := by
  rw [encodeLoop, encodeOne]
  rcases readBits 8 s with ⟨_ | v, t⟩
  · rfl
  · dsimp only
    cases encodeSym (symOfByte (v.setWidth 8)) t <;> rfl

theorem encodeOne_placed (m : Micro) (k : List Frame) (r : Ret) (s : State) :
    encodeOne (placed m k r s) = placedRes m k r (encodeOne s) := by
  rw [encodeOne, encodeOne, readBits_placed]
  rcases readBits 8 s with ⟨_ | v, t⟩
  · rfl
  · simp only [Prod.map, id, encodeSym_placed]
    exact placedRes_bind m k r _ fun _ _ => rfl

theorem step_readByte_op {s : State} (hp : s.phase = .cBody) (k : List Frame) (r : Ret) :
    step (placed .start k r s) = after (exec (.readbits 8) (placed .start k r s)) (follow (placed .start k r s)) := by
  rw [step_quiet rfl, controllerTurn_op (i := .readbits 8) (t := placed .start k r s) (by simp [fetch, placed, hp])]

theorem readBits_phase {n : Nat} {s t : State} {v : Option (BitVec 32)} (h : readBits n s = (v, t)) :
    t.phase = s.phase := by
  have hw := works_readBits n s
  rw [h] at hw
  exact hw.phase

theorem step_readByte_eof {s t : State} (hp : s.phase = .cBody) (hread : readBits 8 s = (none, t)) (k : List Frame)
    (r : Ret) : step (placed .start k r s) = .next (goto .cEof (placed .start k r t)) := by
  have ht : t.phase = .cBody := (readBits_phase hread).trans hp
  rw [step_readByte_op hp, exec, execReadbits, if_pos (by decide), readBits_placed, hread]
  refine (after_next _ _).trans ?_
  simp [follow, placed, hp, ht, goto]

theorem step_readByte {s t : State} {v : BitVec 32} (hp : s.phase = .cBody) (hread : readBits 8 s = (some v, t))
    (k : List Frame) (r : Ret) :
    step (placed .start k r s) = .next (placed (.encode (v.setWidth 8)) k (.value v) t) := by
  have ht : t.phase = .cBody := (readBits_phase hread).trans hp
  rw [step_readByte_op hp, exec, execReadbits, if_pos (by decide), readBits_placed, hread]
  refine (after_next _ _).trans ?_
  simp [follow, placed, hp, ht]

theorem step_encodeByte {s : State} (hp : s.phase = .cBody) (b : Byte) (k : List Frame) (r : Ret) :
    step (placed (.encode b) k r s) =
      (placedRes (.encode b) k r (encodeSym (symOfByte b) s)).toOutcome fun _ u => { u with micro := .start } := by
  have hfetch : fetch (placed (.encode b) k r s) = .op (.encSym (symOfByte b)) (placed (.encode b) k r s) := by
    simp [fetch, placed, hp]
  rw [step_quiet rfl, controllerTurn_op hfetch, exec, execEncSym, encodeSym_placed,
    after_placedRes (keeps_encodeSym _ s) (by simp [hp])]
  · congr 1
    funext _ u
    simp [follow, placed, hp]
  · exact fun _ _ => rfl

/-- A round of C_BODY meets the end of the source, or it is a byte read and then its code written or an error. -/
theorem encodeOne_cases (s : State) :
    (∃ t, readBits 8 s = (none, t) ∧ encodeOne s = .ok false t) ∨
    ∃ v t, readBits 8 s = (some v, t) ∧
      encodeOne s = (encodeSym (symOfByte (v.setWidth 8)) t).bind fun _ u => .ok true u := by
  rw [encodeOne]
  rcases hread : readBits 8 s with ⟨_ | v, t⟩
  · exact .inl ⟨t, rfl, rfl⟩
  · exact .inr ⟨v, t, rfl, rfl⟩

theorem keeps_encodeOne (s : State) : Keeps .noCode s (encodeOne s) := by
  have hw := works_readBits 8 s
  obtain ⟨t, hread, hone⟩ | ⟨v, t, hread, hone⟩ := encodeOne_cases s <;> rw [hread] at hw <;> rw [hone]
  · exact .ok hw
  · exact .of_works hw ((keeps_encodeSym _ t).bind fun _ u => .ok (.refl u))

/-- A byte of C_BODY is two steps: it is read, and its code is written or no-code taken. -/
theorem reaches_encodeOne {s t u : State} {v : BitVec 32} (hp : s.phase = .cBody) (hread : readBits 8 s = (some v, t))
    (h : (placedRes (.encode (v.setWidth 8)) [] (.value v) (encodeSym (symOfByte (v.setWidth 8)) t)).toOutcome
      (fun _ u => { u with micro := .start }) = .next u) (r : Ret) : Reaches (placed .start [] r s) u := by
  have hphase : t.phase = .cBody := (readBits_phase hread).trans hp
  exact .tail (.single (step_readByte hp hread [] r)) ((step_encodeByte hphase _ [] _).trans h)

theorem isRound_encodeOne : IsRound .cBody .cEof .start true encodeOne where
  placed k r s := encodeOne_placed .start k r s
  phase h := (keeps_encodeOne _).phase h
  again {s t} hp h r := by
    obtain ⟨_, _, hone⟩ | ⟨v, u, hread, hone⟩ := encodeOne_cases s <;> rw [hone] at h
    · cases h
    · obtain ⟨_, _, hsym, hlast⟩ := bind_eq_ok.mp h
      cases hlast
      exact ⟨.value v, reaches_encodeOne hp hread (by rw [hsym]; rfl) r⟩
  leaves {s b t} hp hb h r := by
    obtain ⟨_, hread, hone⟩ | ⟨v, u, hread, hone⟩ := encodeOne_cases s <;> rw [hone] at h
    · cases h
      exact .single (step_readByte_eof hp hread [] r)
    · obtain ⟨_, _, -, hlast⟩ := bind_eq_ok.mp h
      cases hlast
      exact absurd rfl hb
  raises {s t} hp h r := by
    obtain ⟨_, _, hone⟩ | ⟨v, u, hread, hone⟩ := encodeOne_cases s <;> rw [hone] at h
    · cases h
    · obtain hsym | ⟨_, _, -, hlast⟩ := bind_eq_raised.mp h
      · exact reaches_encodeOne hp hread (by rw [hsym]; rfl) r
      · cases hlast

theorem bodyPhase_reaches {s t : State} (hs : AtStart .cBody s) (h : exec .cBody s = .next t) :
    Reaches s t := by
  have hself := hs.placed_self
  change (encodeLoop _ s).toOutcome _ = _ at h
  generalize s.src.length - s.pos + 2 = n at h
  rw [← hself] at h ⊢
  exact isRound_encodeOne.reaches (fun _ => rfl) encodeLoop_succ hs.phase h _

/-! ### D_BODY (R210) -/

theorem step_decodeStep {s : State} (hp : s.phase = .dBody) (k : List Frame) (r : Ret) :
    step (placed .loop k r s) = (placedRes .loop k r (decodeStep s)).toOutcome fun stop u =>
      if stop then goto .dClose u else { u with ret := .go } := by
  have hfetch : fetch (placed .loop k r s) = .op .decStep (placed .loop k r s) := by simp [fetch, placed, hp]
  rw [step_quiet rfl, controllerTurn_op hfetch, exec, execDecStep, decodeStep_placed,
    after_placedRes (keeps_decodeStep s) (by simp [hp])]
  · congr 1
    funext stop u
    cases stop <;> simp [follow, placed, hp, goto, stepRet]
  · exact fun _ _ => rfl

theorem isRound_decodeStep : IsRound .dBody .dClose .loop false decodeStep where
  placed k r s := decodeStep_placed .start k r s
  phase h := (keeps_decodeStep _).phase h
  again hp h r := ⟨.go, .single (by rw [step_decodeStep hp, h]; rfl)⟩
  leaves hp hb h r := by
    obtain rfl := Bool.eq_true_of_not_eq_false hb
    exact .single (by rw [step_decodeStep hp, h]; rfl)
  raises hp h r := .single (by rw [step_decodeStep hp, h]; rfl)

theorem decodeLoop_succ (n : Nat) (s : State) :
    decodeLoop (n + 1) s = (decodeStep s).bind fun stop t => if stop = false then decodeLoop n t else .ok () t := by
  rw [decodeLoop]
  congr 1
  funext stop t
  cases stop <;> rfl

theorem decodePhase_reaches {s t : State} (hs : AtStart .dBody s) (h : exec .dBody s = .next t) :
    Reaches s t := by
  have hroot : AtStart .dBody { s with cur := s.root } := ⟨hs.phase, hs.micro, hs.stack, hs.host⟩
  have hfirst : step s = step (placed .loop [] s.ret { s with cur := s.root }) := by
    have hfetch : fetch s = .op .decStep (placed .loop [] s.ret { s with cur := s.root }) := by
      simp [fetch, placed, hs.phase, hs.micro, ← hs.host, ← hs.stack]
    have hfetch' : fetch (placed .loop [] s.ret { s with cur := s.root })
        = .op .decStep (placed .loop [] s.ret { s with cur := s.root }) := by
      simp [fetch, placed, hs.phase]
    rw [step_quiet hs.host, step_quiet rfl, controllerTurn_op hfetch, controllerTurn_op hfetch']
    congr 1
    funext u
    simp [follow, placed, hs.phase]
  have hself : placed .start [] s.ret { s with cur := s.root } = { s with cur := s.root } := hroot.placed_self
  change (decodeLoop _ { s with cur := s.root }).toOutcome _ = _ at h
  rw [← hself] at h
  exact .of_step_eq (isRound_decodeStep.reaches (fun _ => rfl) decodeLoop_succ hroot.phase h _) hfirst

/-! ### D_HEADER (R177, R207) -/

/-- The transfer after a header token: with no call left, to D_ROOTCHK with the result at ROOT (R207). -/
def followToken (s : State) : State :=
  match s.ret with
  | .node n => goto .dRootchk { s with root := n }
  | _ => s

theorem follow_header {s : State} (hp : s.phase = .dHeader) (hloop : s.micro ≠ .start) : follow s = followToken := by
  funext t
  rw [followToken]
  rcases ht : t.ret <;> simp [follow, hp, hloop, ht]

theorem fetch_header {s : State} (hp : s.phase = .dHeader) (k : List Frame) (r : Ret) :
    fetch (placed .loop k r s) = fetchHeader (placed .loop k r s) := by
  simp [fetch, placed, hp]

theorem step_header_eof {s t : State} (hp : s.phase = .dHeader) (hf : fetchNode s = (none, t)) (k : List Frame)
    (r : Ret) : step (placed .loop k r s) = .next (placed .start [] .none (raise .truncatedHeader t)) := by
  rw [step_quiet rfl, controllerTurn, fetch_header hp, fetchHeader, fetchNode_placed, hf]
  exact congrArg _ (raise_placed _ _ _ _ _)

theorem step_header_token {s t : State} {j : NodeToken} (hp : s.phase = .dHeader) (hf : fetchNode s = (some j, t))
    (k : List Frame) (r : Ret) :
    step (placed .loop k r s) = after (exec j.toInstr (placed .loop k r t)) followToken := by
  rw [step_quiet rfl, controllerTurn, fetch_header hp, fetchHeader, fetchNode_placed, hf,
    follow_header (s := placed .loop k r s) hp nofun]
  rfl

theorem fetchNode_phase {s t : State} {j : Option NodeToken} (hf : fetchNode s = (j, t)) : t.phase = s.phase := by
  have hw := works_fetchNode s
  rw [hf] at hw
  exact hw.phase

theorem returnNode_phase (n : NodeIx) (k : List Frame) (s : State) : (returnNode n k s).phase = s.phase := by
  obtain ⟨v, l, r, hv, he, -⟩ := returnNode_works n k s
  rw [he]
  exact hv.phase

/-- The return to the unfinished calls sets the stack and the result itself. -/
theorem returnNode_placed (n : NodeIx) (k : List Frame) (m : Micro) (l : List Frame) (r : Ret) (s : State) :
    returnNode n k (placed m l r s) = returnNode n k (placed m [] .none s) := by
  induction k generalizing n s with
  | nil => rfl
  | cons f k ih =>
    obtain ⟨p, side⟩ := f
    cases side with
    | left => rfl
    | right => exact ih p (setRight p n s)

theorem step_header_leaf {s t : State} {v : BitVec 9} (hp : s.phase = .dHeader)
    (hf : fetchNode s = (some (.leaf v), t)) (k : List Frame) (r : Ret) :
    step (placed .loop k r s) = (placedRes .loop [] .none (makeLeaf v t)).toOutcome fun n u =>
      followToken (returnNode n k u) := by
  have hphase := (fetchNode_phase hf).trans hp
  have hmake := makeLeaf_placed .loop k r t v
  have hkeeps := keeps_makeLeaf v t
  rw [step_header_token hp hf, NodeToken.toInstr, exec_nodeLeaf, hmake,
    after_placedRes hkeeps (by simp [hphase]) fun n u => returnNode_phase n u.stack u]
  cases makeLeaf v t with
  | ok n u => exact congrArg (fun x => Host.Outcome.next (followToken x)) (returnNode_placed n k .loop k r u)
  | raised u => rfl
  | stop e => rfl

theorem step_header_internal {s t u : State} {n : NodeIx} (hp : s.phase = .dHeader)
    (hf : fetchNode s = (some .internal, t)) (hmake : makeInternal t = .ok n u) {k : List Frame}
    (hk : k.length < maxDepth) (r : Ret) :
    step (placed .loop k r s) = .next (placed .loop (⟨n, .left⟩ :: k) .none u) := by
  have hphase : u.phase = .dHeader := ((keeps_makeInternal t).phase hmake).trans ((fetchNode_phase hf).trans hp)
  rw [step_header_token hp hf, NodeToken.toInstr, exec_nodeInternal, makeInternal_placed, hmake, placedRes_ok, bind_ok,
    pushNode, if_pos (show (placed .loop k r u).stack.length < maxDepth from hk)]
  refine (after_next _ _).trans ?_
  rw [if_neg (by simp [placed, hphase])]
  rfl

theorem step_header_full {s t u : State} (hp : s.phase = .dHeader) (hf : fetchNode s = (some .internal, t))
    (hmake : makeInternal t = .raised u) (k : List Frame) (r : Ret) :
    step (placed .loop k r s) = .next (placed .start [] .none u) := by
  have hkeeps := keeps_makeInternal t
  rw [step_header_token hp hf, NodeToken.toInstr, exec_nodeInternal, makeInternal_placed, hmake]
  rw [hmake] at hkeeps
  cases hkeeps with | raised h =>
  exact (after_next _ _).trans (congrArg _ (if_pos (by simp)))

theorem deserialize_of_not_made {d : Nat} {s t : State} (hf : fetchNode s = (some .internal, t)) :
    (∀ u, makeInternal t = .raised u → deserialize d s = .raised u) ∧
    ∀ e, makeInternal t = .stop e → deserialize d s = .stop e := by
  cases d with
  | zero =>
    rw [deserialize_zero_of_internal hf]
    exact ⟨fun u hu => by rw [hu]; rfl, fun e he => by rw [he]; rfl⟩
  | succ d =>
    rw [deserialize_succ_of_internal d hf]
    exact ⟨fun u hu => by rw [hu]; rfl, fun e he => by rw [he]; rfl⟩

/-- What HDR.DES comes to with the calls of `k` unfinished: its subtree is returned to them, or the error taken. -/
def deserializeUnder (k : List Frame) (d : Nat) (s : State) : Host.Outcome State Fault Refusal :=
  (placedRes .loop [] .none (deserialize d s)).toOutcome fun n u => followToken (returnNode n k u)

/-- One token is all there is to a leaf, to the end of the source and to a 257th Internal node; what is left is an
Internal node that is made. -/
theorem reaches_deserialize_of {d : Nat} {s t : State} {k : List Frame} {r : Ret} (hp : s.phase = .dHeader)
    (h : deserializeUnder k d s = .next t)
    (hmade : ∀ u n v, fetchNode s = (some .internal, u) → makeInternal u = .ok n v →
      Reaches (placed .loop k r s) t) : Reaches (placed .loop k r s) t := by
  rw [deserializeUnder] at h
  rcases hf : fetchNode s with ⟨_ | _ | v, u⟩
  · rw [deserialize_of_eof d hf] at h
    exact .single ((step_header_eof hp hf k r).trans h)
  · cases hmake : makeInternal u with
    | ok n v => exact hmade u n v hf hmake
    | raised v =>
      rw [(deserialize_of_not_made hf).1 v hmake] at h
      exact .single ((step_header_full hp hf hmake k r).trans h)
    | stop e =>
      rw [(deserialize_of_not_made hf).2 e hmake] at h
      cases h
  · rw [deserialize_of_leaf d hf] at h
    exact .single ((step_header_leaf hp hf k r).trans h)

/-- With `k` on the stack and the levels of the walk left, the tokens of a header come to the same (R177; log 11). -/
theorem reaches_deserialize {d : Nat} {s t : State} {k : List Frame} (hp : s.phase = .dHeader)
    (hk : k.length + d = maxDepth) (h : deserializeUnder k d s = .next t) (r : Ret) :
    Reaches (placed .loop k r s) t := by
  induction d generalizing s t k r with
  | zero =>
    refine reaches_deserialize_of hp h fun u n v hf hmake => ?_
    rw [deserializeUnder, deserialize_zero_of_internal hf, hmake] at h
    cases h
  | succ d ih =>
    refine reaches_deserialize_of hp h fun u n v hf hmake => ?_
    have hv : v.phase = .dHeader := ((keeps_makeInternal u).phase hmake).trans ((fetchNode_phase hf).trans hp)
    refine .head (step_header_internal hp hf hmake (by omega) r) ?_
    rw [deserializeUnder, deserialize_succ_of_internal d hf, hmake, bind_ok, readChildren] at h
    have hleft := fun u => ih (t := u) (k := ⟨n, .left⟩ :: k) hv (by rw [List.length_cons]; omega)
    cases hl : deserialize d v with
    | ok i w =>
      rw [hl, bind_ok] at h
      have hw : (setLeft n i w).phase = .dHeader := ((runsIn_deserialize d v).phase hl).trans hv
      refine (hleft _ (by rw [deserializeUnder, hl]; rfl) .none).trans
        (ih (s := setLeft n i w) (k := ⟨n, .right⟩ :: k) hw (by rw [List.length_cons]; omega) ?_ .none)
      rw [deserializeUnder]
      cases hr : deserialize d (setLeft n i w) <;> rw [hr] at h <;> exact h
    | raised w =>
      rw [hl] at h
      exact hleft _ (by rw [deserializeUnder, hl]; exact h) .none
    | stop e => rw [hl] at h; cases h

theorem headerPhase_reaches {s t : State} (hs : AtStart .dHeader s) (h : exec .dHeader s = .next t) :
    Reaches s t := by
  have hinit : AtStart .dHeader (initHeader s) := ⟨hs.phase, hs.micro, hs.stack, hs.host⟩
  have hfirst : step s = .next (placed .loop [] s.ret (initHeader s)) :=
    step_enter (i := .hdrInit) hs hinit (by simp [fetch, hs.phase, hs.micro]) rfl rfl
      (by simp [follow, hs.phase, hs.micro])
  have hself : placed .start [] s.ret (initHeader s) = initHeader s := hinit.placed_self
  change (deserialize maxDepth (initHeader s)).toOutcome _ = _ at h
  rw [← hself, deserialize_placed] at h
  refine .head hfirst (reaches_deserialize hinit.phase (Nat.zero_add _) ?_ _)
  rw [deserializeUnder]
  cases hR : deserialize maxDepth (initHeader s) <;> rw [hR] at h <;> exact h

/-! ### D_MAGIC (R206), and all of them -/

theorem step_magic {s : State} (hhost : s.host = []) (hp : s.phase = .dMagic) : step s = exec .dMagic s := by
  have hfetch : fetch s = fetchMagic s := by simp [fetch, hp]
  have hfollow : follow s = fun u => u := by funext u; simp [follow, hp]
  rw [step_quiet hhost, controllerTurn, hfetch, fetchMagic, exec, execDMagic, hfollow]
  rcases readBits 32 s with ⟨_ | m, t⟩
  · rfl
  · exact after_id _

theorem exec_dMagic_next (s : State) : ∃ u, exec .dMagic s = .next u := by
  rw [exec, execDMagic]
  rcases readBits 32 s with ⟨_ | m, t⟩ <;> exact ⟨_, rfl⟩

/-- Settles O56: three loops of rounds, and the header by the calls unfinished. -/
theorem stepsPerformThePhase : Obligations.StepsPerformThePhase := by
  intro s t hhost hmicro hstack
  exact ⟨fun hp h => (countPhase_reaches ⟨hp, hmicro, hstack, hhost⟩ h).exists_runSteps,
    fun hp h => (bodyPhase_reaches ⟨hp, hmicro, hstack, hhost⟩ h).exists_runSteps,
    fun hp h => (headerPhase_reaches ⟨hp, hmicro, hstack, hhost⟩ h).exists_runSteps,
    fun hp h => (decodePhase_reaches ⟨hp, hmicro, hstack, hhost⟩ h).exists_runSteps,
    fun hp => ⟨step_magic hhost hp, exec_dMagic_next s⟩⟩

end Sys2Proof.Proofs
end

section
/-! ENC.SYM and the compress phases (R190 to R200): each phase is its operation and a control transfer, and C_BODY
writes the codes of the source's bytes, whatever is read in between. -/

namespace Sys2Proof.Proofs

open Sys2Proof.Machine Sys2Proof.Laws

/-! ### ENC.SYM (R197) -/

theorem encodeSym_of_valid {s : State} {y : Sym} (h : s.codeValid.get y = true) :
    encodeSym y s = .ok () (putBits (codeBits (s.code.get y)) s) := if_pos h

theorem encodeSym_of_not_valid {s : State} {y : Sym} (h : s.codeValid.get y = false) :
    encodeSym y s = .raised (raise .noCode s) := if_neg (by simp [h])

theorem exec_encSym (y : Sym) (s : State) : exec (.encSym y) s = (encodeSym y s).toOutcome fun _ t => t := rfl

/-- The low bits of a code of at most 32 bits are those of the word WRITEBITS takes (R197, R121). -/
theorem bitsOf_setWidth {n : Nat} (h : n ≤ 32) (x : BitVec 256) :
    bitsOf n (x.setWidth 32).toNat = bitsOf n x.toNat := by
  rw [BitVec.toNat_setWidth, ← bitsOf_mod, Nat.mod_mod_of_dvd _ (pow_dvd_pow 2 h), bitsOf_mod]

/-- Settles O46: a code is put bit by bit; its low 32 bits are all of a code that WRITEBITS could write. -/
theorem symbolEncoding : Obligations.SymbolEncoding := by
  intro s y
  have hput (h : s.codeValid.get y = true) : exec (.encSym y) s = .next (putBits (codeBits (s.code.get y)) s) := by
    rw [exec_encSym, encodeSym_of_valid h]
    rfl
  refine ⟨rfl, hput, fun h hpos hle => ?_, fun h => ?_⟩
  · rw [hput h, exec_writebits hpos hle, writeBits, bitsOf_setWidth hle]
    rfl
  · rw [exec_encSym, encodeSym_of_not_valid h]
    rfl

/-! ### The phases but C_BODY (R191 to R196, R199, R200) -/

/-- An operation whose only error is `e`, whichever `e` is, takes none. -/
theorem ne_raised_of_keeps {α : Type} {s t : State} {R : Res α} (h : ∀ e, Keeps e s R) : R ≠ .raised t := by
  have herr (e : ErrKind) (hR : R = .raised t) : t.err = errCode e := by
    have hk := h e
    rw [hR] at hk
    cases hk with | raised _ => exact raise_err e _
  intro hR
  exact absurd ((herr .noCode hR).symm.trans (herr .countOverflow hR)) (by decide)

/-- Where an operation that takes no error comes to `t`, the phase that performs it goes on from there. -/
theorem toOutcome_goto {α : Type} {s t : State} {R : Res α} (hk : ∀ e, Keeps e s R)
    (h : R.toOutcome (fun _ u => u) = .next t) (q : Phase) :
    R.toOutcome (fun _ u => goto q u) = .next (goto q t) := by
  obtain ⟨a, u, rfl, rfl⟩ | hraised := toOutcome_eq_next.mp h
  · rfl
  · exact absurd hraised (ne_raised_of_keeps hk)

theorem exec_cBuild_of_next {s t : State} (h : exec .tbBuild s = .next t) : exec .cBuild s = .next (goto .cCodes t) :=
  toOutcome_goto (fun _ => keeps_buildTree s) h .cCodes

theorem exec_cCodes_of_next {s t : State} (h : exec .ctDerive s = .next t) : exec .cCodes s = .next (goto .cMagic t) :=
  toOutcome_goto (fun _ => keeps_deriveCodes s) h .cMagic

theorem exec_hdrSer_of_tree {s : State} {T : SymbolTree} (h : s.tree = some T) :
    exec (.hdrSer s.root) s = .next (putBits T.ser s) :=
  congrArg (fun R => R.toOutcome fun _ t => t) (serialize_eq_putBits h)

theorem exec_cHeader_of_tree {s : State} {T : SymbolTree} (h : s.tree = some T) :
    exec .cHeader s = .next (goto .cRewind (putBits T.ser s)) :=
  toOutcome_goto (fun _ => keeps_serialize _ _ s) (exec_hdrSer_of_tree h) .cRewind

theorem exec_cEof_of_valid {s : State} (h : s.codeValid.get pseudoEof = true) :
    exec .cEof s = .next (goto .cFlush (putBits (codeBits (s.code.get pseudoEof)) s)) :=
  congrArg (fun R => R.toOutcome fun _ t => goto .cFlush t) (encodeSym_of_valid h)

theorem exec_cCount_of_fits {s : State} (hcnt : s.rdCnt = 0) (hpos : s.pos = 0)
    (hfit : 1 + s.src.length < 2 ^ s.par.w) :
    exec .cCount s = .next (goto .cBuild (takeEof (countBytes s.src (clearCounts s)))) :=
  congrArg (fun R => R.toOutcome fun _ t => goto .cBuild t) (countAll_of_fits hcnt hpos hfit)

/-- Where W counts the bytes of a source, TOTAL has room for them (R142). -/
theorem fits_of_le {n w : Nat} (hw : 1 ≤ w) (h : n ≤ 2 ^ w - 2) : 1 + n < 2 ^ w := by
  have hpow : 2 ≤ 2 ^ w := Nat.pow_le_pow_right (n := 2) (by decide) hw
  omega

/-- Settles O51: phase by phase, the operation and the transfer. -/
theorem compressPhases : Obligations.CompressPhases := by
  intro s
  refine ⟨fun hcnt hpos hw hlen => ?_, fun hfreq => ?_, fun htree => ?_, ?_, fun htree => ?_, ⟨_, rfl, rfl⟩,
    fun hvalid => ?_, ⟨_, rfl, rfl⟩⟩
  · have hfit := fits_of_le hw hlen
    refine ⟨_, ?_, exec_cCount_of_fits hcnt hpos hfit⟩
    rw [exec_fcRun, countAll_of_fits hcnt hpos hfit]
    rfl
  · obtain ⟨t, _, hbuild, -⟩ := buildMakesAValidTree s hfreq
    exact ⟨t, hbuild, exec_cBuild_of_next hbuild⟩
  · obtain ⟨T, hT⟩ := Option.isSome_iff_exists.mp htree
    exact ⟨_, exec_ctDerive_of_tree hT, exec_cCodes_of_next (exec_ctDerive_of_tree hT)⟩
  · exact ⟨_, exec_writebits (by decide) (by decide) _ s, rfl⟩
  · obtain ⟨T, hT⟩ := Option.isSome_iff_exists.mp htree
    exact ⟨_, exec_hdrSer_of_tree hT, exec_cHeader_of_tree hT⟩
  · refine ⟨_, ?_, exec_cEof_of_valid hvalid⟩
    change (encodeSym pseudoEof s).toOutcome _ = _
    rw [encodeSym_of_valid hvalid]
    rfl

/-! ### What the packer and the sink do, apart from all else -/

/-- All that a PUTBIT depends on and writes, but for the record of transactions (R120, R61). -/
def packer (s : State) : BitVec 8 × Fin 8 × List Byte × Nat × Snk := (s.wrAcc, s.wrCnt, s.out, s.fresh, s.snk)

theorem packer_eq_iff {s t : State} : packer t = packer s ↔
    t.wrAcc = s.wrAcc ∧ t.wrCnt = s.wrCnt ∧ t.out = s.out ∧ t.fresh = s.fresh ∧ t.snk = s.snk := by
  simp only [packer, Prod.mk.injEq]

theorem packer_putBit (b : Bool) {s t : State} (h : packer t = packer s) :
    packer (putBit b t) = packer (putBit b s) := by
  obtain ⟨hacc, hcnt, hout, hfresh, hsnk⟩ := packer_eq_iff.mp h
  rcases Nat.lt_or_ge s.wrCnt.val 7 with hroom | hfull
  · rw [putBit_of_room b hroom, putBit_of_room b (hcnt ▸ hroom)]
    simp only [packer, hacc, hcnt, hout, hfresh, hsnk]
  · have hs : s.wrCnt.val = 7 := by omega
    rw [putBit_of_full b hs, putBit_of_full b (hcnt ▸ hs)]
    simp only [packer, snkPut, hacc, hcnt, hout, hfresh, hsnk]

theorem packer_putBits (l : BitString) {s t : State} (h : packer t = packer s) :
    packer (putBits l t) = packer (putBits l s) := by
  induction l generalizing s t with
  | nil => exact h
  | cons b l ih => exact ih (packer_putBit b h)

@[simp] theorem nextsIn_concat_snkPut (l : List Txn) (b : Byte) : nextsIn (l ++ [.snkPut b]) = nextsIn l := by
  simp [nextsIn]

theorem nextsIn_putBit (b : Bool) (s : State) : nextsIn (putBit b s).trace = nextsIn s.trace := by
  rcases Nat.lt_or_ge s.wrCnt.val 7 with h | h
  · rw [putBit_of_room b h]
  · rw [putBit_of_full b (by omega)]
    exact nextsIn_concat_snkPut _ _

@[simp] theorem nextsIn_putBits (l : BitString) (s : State) : nextsIn (putBits l s).trace = nextsIn s.trace := by
  induction l generalizing s with
  | nil => rfl
  | cons b l ih => rw [putBits_cons, ih, nextsIn_putBit]

/-! ### C_BODY (R198) -/

/-- A byte read with the byte register empty, and the bits of its code put (R198). -/
def encodeByte (b : Byte) (s : State) : State := putBits (codeBits (s.code.get (symOfByte b))) (takeByte b s)

/-- Each byte read and encoded, first to last. -/
def encodeBytes (l : List Byte) (s : State) : State := l.foldl (fun t b => encodeByte b t) s

@[simp] theorem encodeBytes_nil (s : State) : encodeBytes [] s = s := rfl

@[simp] theorem encodeBytes_cons (b : Byte) (l : List Byte) (s : State) :
    encodeBytes (b :: l) s = encodeBytes l (encodeByte b s) := rfl

/-- All that encoding a byte can change. -/
theorem encodeByte_frame (b : Byte) (s : State) : encodeByte b s = { s with
    out := (encodeByte b s).out, wrAcc := (encodeByte b s).wrAcc, wrCnt := (encodeByte b s).wrCnt,
    fresh := (encodeByte b s).fresh, pos := s.pos + 1, rdByte := b, trace := (encodeByte b s).trace } :=
  putBits_frame _ _

theorem encodeBytes_frame (l : List Byte) (s : State) : encodeBytes l s = { s with
    out := (encodeBytes l s).out, wrAcc := (encodeBytes l s).wrAcc, wrCnt := (encodeBytes l s).wrCnt,
    fresh := (encodeBytes l s).fresh, pos := s.pos + l.length, rdByte := (encodeBytes l s).rdByte,
    trace := (encodeBytes l s).trace } := by
  induction l generalizing s with
  | nil => rfl
  | cons b l ih =>
    rw [encodeBytes_cons, ih, encodeByte_frame, List.length_cons, Nat.add_comm l.length, ← Nat.add_assoc]

section

variable (b : Byte) (l : List Byte) (s : State)

@[simp] theorem encodeByte_src : (encodeByte b s).src = s.src := by rw [encodeByte_frame]
@[simp] theorem encodeByte_pos : (encodeByte b s).pos = s.pos + 1 := by rw [encodeByte_frame]
@[simp] theorem encodeByte_rdCnt : (encodeByte b s).rdCnt = s.rdCnt := by rw [encodeByte_frame]
@[simp] theorem encodeByte_code : (encodeByte b s).code = s.code := by rw [encodeByte_frame]
@[simp] theorem encodeByte_codeValid : (encodeByte b s).codeValid = s.codeValid := by rw [encodeByte_frame]
@[simp] theorem encodeBytes_src : (encodeBytes l s).src = s.src := by rw [encodeBytes_frame]
@[simp] theorem encodeBytes_pos : (encodeBytes l s).pos = s.pos + l.length := by rw [encodeBytes_frame]
@[simp] theorem encodeBytes_rdCnt : (encodeBytes l s).rdCnt = s.rdCnt := by rw [encodeBytes_frame]
@[simp] theorem encodeBytes_codeValid : (encodeBytes l s).codeValid = s.codeValid := by rw [encodeBytes_frame]

end

theorem nextsIn_encodeBytes (l : List Byte) (s : State) :
    nextsIn (encodeBytes l s).trace = nextsIn s.trace + l.length := by
  induction l generalizing s with
  | nil => rfl
  | cons b l ih =>
    have hone : nextsIn (encodeByte b s).trace = nextsIn s.trace + 1 :=
      (nextsIn_putBits _ _).trans (nextsIn_concat_srcNext _ _)
    rw [encodeBytes_cons, ih, hone, List.length_cons]
    omega

/-- The packer and the sink see the codes only, whatever is read in between. -/
theorem packer_encodeBytes (l : List Byte) (s : State) :
    packer (encodeBytes l s) = packer (putBits (l.flatMap fun b => codeBits (s.code.get (symOfByte b))) s) := by
  induction l generalizing s with
  | nil => rfl
  | cons b l ih =>
    rw [encodeBytes_cons, ih, List.flatMap_cons, putBits_append, encodeByte_code]
    exact packer_putBits _ (packer_putBits _ rfl)

theorem encodeOne_of_end {s : State} (hcnt : s.rdCnt = 0) (hend : s.src[s.pos]? = none) :
    encodeOne s = .ok false (takeEof s) := by
  rw [encodeOne, readBits, getBits_succ_of_end 7 (getBit_of_end hcnt hend)]
  rfl

theorem encodeOne_of_byte {s : State} {b : Byte} (hcnt : s.rdCnt = 0) (hb : s.src[s.pos]? = some b) :
    encodeOne s = (encodeSym (symOfByte b) (takeByte b s)).bind fun _ u => .ok true u := by
  rw [encodeOne, readBits_byte hcnt hb]
  dsimp only
  rw [setWidth_numeral_byte]

/-- The loop encodes the bytes next in the source as long as they have codes (R198). -/
theorem encodeLoop_of_bytes {l m : List Byte} {s : State} (n : Nat) (hcnt : s.rdCnt = 0)
    (hsrc : s.src.drop s.pos = l ++ m) (hvalid : ∀ b ∈ l, s.codeValid.get (symOfByte b) = true) :
    encodeLoop (l.length + n) s = encodeLoop n (encodeBytes l s) := by
  induction l generalizing s with
  | nil => simp
  | cons b l ih =>
    have hb : s.src[s.pos]? = some b := by rw [← List.head?_drop, hsrc]; rfl
    have htail : s.src.drop (s.pos + 1) = l ++ m := by rw [← List.tail_drop, hsrc]; rfl
    obtain ⟨hhead, hrest⟩ := List.forall_mem_cons.mp hvalid
    rw [List.length_cons, Nat.add_right_comm, encodeLoop_succ, encodeOne_of_byte hcnt hb,
      encodeSym_of_valid (s := takeByte b s) hhead, bind_ok, bind_ok, if_pos rfl, encodeBytes_cons]
    exact ih (s := encodeByte b s) (by simpa using hcnt) (by simpa using htail) (by simpa using hrest)

theorem exec_cBody (s : State) :
    exec .cBody s = (encodeLoop (s.src.length - s.pos + 2) s).toOutcome fun _ t => goto .cEof t := rfl

/-- C_BODY where every byte has a code. -/
theorem exec_cBody_of_valid {s : State} (hcnt : s.rdCnt = 0)
    (hvalid : ∀ b ∈ s.src.drop s.pos, s.codeValid.get (symOfByte b) = true) :
    exec .cBody s = .next (goto .cEof (takeEof (encodeBytes (s.src.drop s.pos) s))) := by
  rw [exec_cBody, ← List.length_drop, encodeLoop_of_bytes 2 hcnt (List.append_nil _).symm hvalid, encodeLoop_succ,
    encodeOne_of_end (by simpa using hcnt) (by simp; omega)]
  rfl

/-- C_BODY where the bytes before `b` have codes and `b` has none. -/
theorem exec_cBody_of_no_code {s : State} {l m : List Byte} {b : Byte} (hcnt : s.rdCnt = 0)
    (hsrc : s.src.drop s.pos = l ++ b :: m) (hvalid : ∀ b ∈ l, s.codeValid.get (symOfByte b) = true)
    (hb : s.codeValid.get (symOfByte b) = false) :
    exec .cBody s = .next (raise .noCode (takeByte b (encodeBytes l s))) := by
  have hnext : (encodeBytes l s).src[(encodeBytes l s).pos]? = some b := by
    rw [encodeBytes_src, encodeBytes_pos, ← List.getElem?_drop, hsrc]
    simp
  have hcode : (takeByte b (encodeBytes l s)).codeValid.get (symOfByte b) = false := by
    rw [takeByte, encodeBytes_codeValid]
    exact hb
  have hfuel : s.src.length - s.pos + 2 = l.length + (m.length + 2 + 1) := by
    rw [← List.length_drop, hsrc, List.length_append, List.length_cons]
    omega
  rw [exec_cBody, hfuel, encodeLoop_of_bytes _ hcnt hsrc hvalid, encodeLoop_succ,
    encodeOne_of_byte (by simpa using hcnt) hnext, encodeSym_of_not_valid hcode]
  rfl

/-- Settles O52: the loop reads and encodes byte after byte up to the end of the source, or to the first byte without a
code. -/
theorem bodyWritesTheCodes : Obligations.BodyWritesTheCodes := by
  intro s hcnt hpos
  refine ⟨fun hvalid => ?_, fun hbad => ?_⟩
  · obtain ⟨hacc, hwr, hout, -, -⟩ := packer_eq_iff.mp (packer_encodeBytes (s.src.drop s.pos) s)
    refine ⟨_, _, exec_cBody_of_valid hcnt hvalid, rfl, rfl, hout, hacc, hwr, ?_, ?_, ?_⟩
    · change (encodeBytes (s.src.drop s.pos) s).pos = _
      rw [encodeBytes_pos, List.length_drop]
      omega
    · change nextsIn ((encodeBytes (s.src.drop s.pos) s).trace ++ [.srcNext none]) = _
      rw [nextsIn_concat_srcNext, nextsIn_encodeBytes, List.length_drop]
    · rw [encodeBytes_frame]
      rfl
  · have hsome : ((s.src.drop s.pos).find? fun b => !s.codeValid.get (symOfByte b)).isSome := by
      simpa [List.find?_isSome] using hbad
    obtain ⟨b, hb⟩ := Option.isSome_iff_exists.mp hsome
    obtain ⟨hnot, l, m, hsrc, hbefore⟩ := List.find?_eq_some_iff_append.mp hb
    exact ⟨_, exec_cBody_of_no_code hcnt hsrc (by simpa using hbefore) (by simpa using hnot), rfl, rfl⟩

end Sys2Proof.Proofs
end

section
/-! COMPRESS as a whole (R201, R202): phase after phase the machine has written a longer beginning of the stream, and
the closed sink holds it packed. -/

namespace Sys2Proof.Proofs

open Sys2Proof.Machine Sys2Proof.Laws

/-! ### Packing (R201) -/

theorem numeral_replicate_false (n : Nat) : numeral (List.replicate n false) = 0 := by
  induction n with
  | zero => rfl
  | succ n ih => rw [List.replicate_succ, numeral_cons, ih, Bool.toNat_false, Nat.zero_mul]

/-- A byte is made from its first bits when the others are 0 (R64). -/
theorem byteOfBits_of_padded {x : Byte} {b : BitString} {n : Nat} (h : bitsOf 8 x.toNat = b ++ List.replicate n false) :
    byteOfBits b = x := by
  have hlen := congrArg List.length h
  rw [bitsOf_length, List.length_append, List.length_replicate] at hlen
  have hnum := congrArg numeral h
  rw [numeral_bitsOf, Nat.mod_eq_of_lt x.isLt, numeral_append, List.length_replicate, numeral_replicate_false,
    Nat.add_zero] at hnum
  rw [byteOfBits, show 8 - b.length = n by omega, ← hnum, BitVec.ofNat_toNat, BitVec.setWidth_eq]

/-- The bits of byte `k` of a sequence. -/
theorem take_drop_unpackBytes {l : List Byte} {k : Nat} (hk : k < l.length) :
    ((unpackBytes l).drop (8 * k)).take 8 = bitsOf 8 l[k].toNat := by
  induction l generalizing k with
  | nil => cases hk
  | cons x l ih =>
    have hcons : unpackBytes (x :: l) = bitsOf 8 x.toNat ++ unpackBytes l := List.flatMap_cons
    rw [hcons]
    cases k with
    | zero => exact List.take_left' (bitsOf_length 8 _)
    | succ k =>
      rw [Nat.mul_succ, Nat.add_comm, ← List.drop_drop, List.drop_left' (bitsOf_length 8 _)]
      exact ih (Nat.lt_of_succ_lt_succ hk)

/-- Bytes that spell a string and then zeros up to a whole byte are the string packed. -/
theorem eq_packBits {x : List Byte} {l : BitString}
    (h : unpackBytes x = l ++ List.replicate ((8 - l.length % 8) % 8) false) : x = packBits l := by
  have hlen := congrArg List.length h
  rw [unpackBytes_length, List.length_append, List.length_replicate] at hlen
  refine List.ext_getElem (by rw [packBits, List.length_map, List.length_range]; omega) fun k hk _ => ?_
  have hbyte := take_drop_unpackBytes hk
  rw [h, List.drop_append, List.take_append, List.drop_replicate, List.take_replicate] at hbyte
  simp only [packBits, List.getElem_map, List.getElem_range]
  exact (byteOfBits_of_padded hbyte.symm).symm

theorem out_closeOut_congr {s t : State} (h : packer t = packer s) : (closeOut t).out = (closeOut s).out := by
  obtain ⟨hacc, hcnt, hout, hfresh, hsnk⟩ := packer_eq_iff.mp h
  by_cases hs : s.wrCnt = 0
  · rw [closeOut_of_empty hs, closeOut_of_empty (hcnt.trans hs)]
    exact hout
  · rw [closeOut_of_pending hs, closeOut_of_pending (hcnt ▸ hs)]
    simp only [snkClose, snkPut, hacc, hout, hfresh, hsnk]

/-- A sink that was open and empty holds, when closed, the string put packed (R201). -/
theorem out_closeOut_of_putBits {s t : State} {l : BitString} (hacc : s.wrAcc = 0) (hcnt : s.wrCnt = 0)
    (hopen : s.snk = .opened) (hout : s.out = []) (h : packer t = packer (putBits l s)) :
    (closeOut t).out = packBits l := by
  rw [out_closeOut_congr h]
  exact eq_packBits (unpackBytes_closeOut_putBits l hacc hcnt hopen hout)

/-! ### What every phase of COMPRESS keeps -/

/-- What no phase of COMPRESS changes, from the start of C_COUNT on. -/
def setting (s : State) : Params × List Byte × BitVec 1 × BitVec 3 × List Frame × List HostEvent × Fin 9 :=
  (s.par, s.src, s.mode, s.err, s.stack, s.host, s.rdCnt)

theorem setting_eq_iff {s t : State} : setting t = setting s ↔ t.par = s.par ∧ t.src = s.src ∧ t.mode = s.mode ∧
    t.err = s.err ∧ t.stack = s.stack ∧ t.host = s.host ∧ t.rdCnt = s.rdCnt := by
  simp only [setting, Prod.mk.injEq]

/-- What no phase of COMPRESS changes once the codes are derived (R73): the tree and the codes. -/
def plan (s : State) : Vector Node 513 × Fin 514 × NodeIx × Vector CodeEntry 257 × Vector Bool 257 :=
  (s.node, s.nodeCnt, s.root, s.code, s.codeValid)

theorem plan_eq_iff {s t : State} : plan t = plan s ↔ t.node = s.node ∧ t.nodeCnt = s.nodeCnt ∧ t.root = s.root ∧
    t.code = s.code ∧ t.codeValid = s.codeValid := by
  simp only [plan, Prod.mk.injEq]

/-- The tree and the codes in the machine are those of `T`. -/
structure Coded (T : SymbolTree) (s : State) : Prop where
  tree : s.tree = some T
  codes : ∀ y ∈ T.values, s.codeValid.get y = true ∧ codeBits (s.code.get y) = T.codeBits y

theorem tree_congr {s t : State} (hnode : t.node = s.node) (hcnt : t.nodeCnt = s.nodeCnt) (hroot : t.root = s.root) :
    t.tree = s.tree := by
  rw [State.tree, State.tree, hroot, treeAt_congr hnode hcnt]

theorem tree_goto (q : Phase) (s : State) : (goto q s).tree = s.tree :=
  tree_congr (goto_node q s) (goto_nodeCnt q s) (goto_root q s)

theorem Coded.congr {T : SymbolTree} {s t : State} (h : Coded T s) (hplan : plan t = plan s) : Coded T t := by
  obtain ⟨hnode, hcnt, hroot, hcode, hvalid⟩ := plan_eq_iff.mp hplan
  exact ⟨(tree_congr hnode hcnt hroot).trans h.tree, fun y hy => by rw [hcode, hvalid]; exact h.codes y hy⟩

/-- From `s`, the start of C_COUNT, the machine has come to the start of phase `p` in `u`: it has asked the source for
`n` bytes and put the bits `l`. -/
structure Compressing (s : State) (p : Phase) (n : Nat) (l : BitString) (u : State) : Prop where
  phase : u.phase = p
  micro : u.micro = .start
  setting : setting u = setting s
  reads : nextsIn u.trace = nextsIn s.trace + n
  packer : packer u = packer (putBits l s)

section

variable {s u w : State} {p q : Phase} {n m : Nat} {l l' : BitString}

/-- The work of a phase, then the transfer. -/
theorem Compressing.goto (h : Compressing s p n l u) (hsetting : Proofs.setting w = Proofs.setting u)
    (hreads : nextsIn w.trace = nextsIn u.trace + m) (hpacker : Proofs.packer w = Proofs.packer (putBits l' u)) :
    Compressing s q (n + m) (l ++ l') (goto q w) where
  phase := rfl
  micro := rfl
  setting := hsetting.trans h.setting
  reads := by rw [← Nat.add_assoc, ← h.reads]; exact hreads
  packer := by rw [putBits_append]; exact hpacker.trans (packer_putBits l' h.packer)

/-- The same for work that puts nothing. -/
theorem Compressing.goto_silent (h : Compressing s p n l u) (hsetting : Proofs.setting w = Proofs.setting u)
    (hreads : nextsIn w.trace = nextsIn u.trace + m) (hpacker : Proofs.packer w = Proofs.packer u) :
    Compressing s q (n + m) l (Machine.goto q w) := by
  have h' := h.goto (q := q) (l' := []) hsetting hreads hpacker
  rwa [List.append_nil] at h'

theorem Compressing.host (h : Compressing s p n l u) (hs : s.host = []) : u.host = [] := by
  obtain ⟨-, -, -, -, -, hhost, -⟩ := setting_eq_iff.mp h.setting
  exact hhost.trans hs

theorem Compressing.reaches_whole (h : Compressing s p n l u) (hs : s.host = []) {i : Instr}
    (hi : wholePhase p = some i) (hexec : exec i u = .next w) : Reaches u w :=
  .single ((step_whole (h.host hs) (by rw [h.phase]; exact hi)).trans hexec)

end

/-! ### From the start to the codes -/

/-- C_COUNT: every byte of the source is counted (R191). -/
theorem compress_count {s : State} (hs : AtStart .cCount s) (hcnt : s.rdCnt = 0) (hpos : s.pos = 0)
    (hfit : 1 + s.src.length < 2 ^ s.par.w) :
    ∃ u, Reaches s u ∧ Compressing s .cBuild (s.src.length + 1) [] u ∧
      ∀ y, 0 < u.freq.get y ↔ y = pseudoEof ∨ ∃ b ∈ s.src, symOfByte b = y := by
  have hstart : Compressing s .cCount 0 [] s := ⟨hs.phase, hs.micro, rfl, rfl, rfl⟩
  have hend := hstart.goto_silent (q := .cBuild) (w := takeEof (countBytes s.src (clearCounts s)))
    (m := s.src.length + 1) (by rw [takeEof, countBytes_frame]; rfl) (by simp [takeEof]; omega)
    (by rw [takeEof, countBytes_frame]; rfl)
  rw [Nat.zero_add] at hend
  refine ⟨_, countPhase_reaches hs (exec_cCount_of_fits hcnt hpos hfit), hend, fun y => ?_⟩
  change 0 < (countBytes s.src (clearCounts s)).freq.get y ↔ _
  rw [get_countBytes_clearCounts hfit, Nat.add_pos_iff_pos_or_pos, List.count_pos_iff, List.mem_map]
  by_cases hy : y = pseudoEof <;> simp [hy]

/-- C_BUILD: a valid tree of the symbols counted (R192, R158). -/
theorem compress_build {s u : State} {n : Nat} {l : BitString} (hs : s.host = []) (h : Compressing s .cBuild n l u)
    (hfreq : 0 < u.freq.get pseudoEof) :
    ∃ v T, Reaches u v ∧ Compressing s .cCodes n l v ∧ v.tree = some T ∧ T.valid ∧
      ∀ y, y ∈ T.values ↔ 0 < u.freq.get y := by
  obtain ⟨t, T, hbuild, htree, hvalid, hmem, -, -, -, -, -, -, hframe⟩ := buildMakesAValidTree u hfreq
  refine ⟨_, T, h.reaches_whole hs rfl (exec_cBuild_of_next hbuild), ?_, (tree_goto _ t).trans htree, hvalid,
    hmem⟩
  exact h.goto_silent (m := 0) (by rw [hframe]; rfl) (by rw [hframe]; rfl) (by rw [hframe]; rfl)

/-- C_CODES: the codes of the tree (R193, R165). -/
theorem compress_codes {s u : State} {n : Nat} {l : BitString} {T : SymbolTree} (hs : s.host = [])
    (h : Compressing s .cCodes n l u) (htree : u.tree = some T) (hT : T.distinct) :
    ∃ v, Reaches u v ∧ Compressing s .cMagic n l v ∧ Coded T v := by
  obtain ⟨t, hderive, hframe, hcodes⟩ := codesAreThePaths u T htree hT
  refine ⟨_, h.reaches_whole hs rfl (exec_cCodes_of_next hderive), ?_, ?_, fun y hy => ?_⟩
  · exact h.goto_silent (m := 0) (by rw [hframe]; rfl) (by rw [hframe]; rfl) (by rw [hframe]; rfl)
  · rw [tree_goto, tree_congr (s := u) (by rw [hframe]) (by rw [hframe]) (by rw [hframe]), htree]
  · obtain ⟨c, hc⟩ := exists_code_of_mem hy
    have hy := hcodes y
    rw [hc] at hy
    obtain ⟨hvalid, -, -, hbits⟩ := hy
    exact ⟨hvalid, by rw [SymbolTree.codeBits, hc]; exact hbits⟩

/-! ### The stream -/

section

variable {s u : State} {p q : Phase} {n : Nat} {l : BitString} {T : SymbolTree}

/-- A phase that puts a string and goes on. -/
theorem compress_put (hs : s.host = []) (h : Compressing s p n l u) (hT : Coded T u) {i : Instr} (l' : BitString)
    (hi : wholePhase p = some i) (hexec : exec i u = .next (goto q (putBits l' u))) :
    ∃ v, Reaches u v ∧ Compressing s q n (l ++ l') v ∧ Coded T v ∧ v.pos = u.pos := by
  refine ⟨_, h.reaches_whole hs hi hexec, h.goto (m := 0) ?_ (nextsIn_putBits l' u) rfl, hT.congr ?_, ?_⟩
  · rw [putBits_frame]; rfl
  · rw [putBits_frame]; rfl
  · rw [goto_pos, putBits_frame]

/-- C_REWIND (R196). -/
theorem compress_rewind (hs : s.host = []) (hcnt : s.rdCnt = 0) (h : Compressing s .cRewind n l u) (hT : Coded T u) :
    ∃ v, Reaches u v ∧ Compressing s .cBody n l v ∧ Coded T v ∧ v.pos = 0 := by
  have hrd : u.rdCnt = 0 := by
    obtain ⟨-, -, -, -, -, -, hrd⟩ := setting_eq_iff.mp h.setting
    exact hrd.trans hcnt
  refine ⟨goto .cBody (rewindIn u), h.reaches_whole hs rfl rfl, h.goto_silent (m := 0) ?_ ?_ rfl, hT.congr rfl, rfl⟩
  · simp only [setting, rewindIn, srcRewind, hrd]
  · simp [rewindIn, nextsIn]

/-- C_BODY: the codes of the source (R198). -/
theorem compress_body (hs : s.host = []) (hstack : s.stack = []) (hcnt : s.rdCnt = 0)
    (h : Compressing s .cBody n l u) (hT : Coded T u) (hpos : u.pos = 0)
    (hmem : ∀ b ∈ s.src, symOfByte b ∈ T.values) :
    ∃ v, Reaches u v ∧
      Compressing s .cEof (n + (s.src.length + 1)) (l ++ s.src.flatMap fun b => T.codeBits (symOfByte b)) v ∧
      Coded T v ∧ v.pos = s.src.length := by
  obtain ⟨-, hsrc, -, -, hstack', -, hrd⟩ := setting_eq_iff.mp h.setting
  have hdrop : u.src.drop u.pos = s.src := by rw [hpos, hsrc]; rfl
  have hvalid : ∀ b ∈ u.src.drop u.pos, u.codeValid.get (symOfByte b) = true := fun b hb =>
    (hT.codes _ (hmem b (hdrop ▸ hb))).1
  have hexec := exec_cBody_of_valid (hrd.trans hcnt) hvalid
  have hcodes : (s.src.flatMap fun b => codeBits (u.code.get (symOfByte b)))
      = s.src.flatMap fun b => T.codeBits (symOfByte b) :=
    List.flatMap_congr fun b hb => (hT.codes _ (hmem b hb)).2
  rw [hdrop] at hexec
  refine ⟨_, bodyPhase_reaches ⟨h.phase, h.micro, hstack'.trans hstack, h.host hs⟩ hexec, h.goto ?_ ?_ ?_,
    hT.congr ?_, ?_⟩
  · rw [takeEof, encodeBytes_frame]; rfl
  · rw [takeEof, nextsIn_concat_srcNext, nextsIn_encodeBytes]; rfl
  · rw [← hcodes]
    exact packer_encodeBytes s.src u
  · rw [takeEof, encodeBytes_frame]; rfl
  · rw [goto_pos, takeEof, encodeBytes_pos, hpos, Nat.zero_add]

end

/-! ### COMPRESS -/

/-- The start of C_COUNT after COMPRESS (R221, R127). -/
def compressStart (s : State) : State := goto .cCount (initChannel { s with host := [], mode := 0 })

theorem step_compress {s : State} (hp : s.phase = .idle) (hhost : s.host = [.write 0x01#8]) :
    step s = .next (compressStart s) := by
  rw [step_host hhost]
  exact if_pos hp

/-- From C_COUNT the controller comes to C_FLUSH with the stream put (R201). -/
theorem compress_stream {s : State} (hs : AtStart .cCount s) (hcnt : s.rdCnt = 0) (hpos : s.pos = 0)
    (hfit : 1 + s.src.length < 2 ^ s.par.w) :
    ∃ u T, Reaches s u ∧ Compressing s .cFlush (2 * s.src.length + 2) (streamBits s.par.magic T s.src) u ∧
      u.tree = some T ∧ T.valid ∧ (∀ y, y ∈ T.values ↔ y = pseudoEof ∨ ∃ b ∈ s.src, symOfByte b = y) ∧
      u.pos = s.src.length := by
  obtain ⟨u₁, hrun₁, h₁, hfreq⟩ := compress_count hs hcnt hpos hfit
  obtain ⟨u₂, T, hrun₂, h₂, htree, hvalid, hvalues⟩ := compress_build hs.host h₁ ((hfreq _).mpr (.inl rfl))
  have hmem (y : Sym) : y ∈ T.values ↔ y = pseudoEof ∨ ∃ b ∈ s.src, symOfByte b = y := (hvalues y).trans (hfreq y)
  obtain ⟨u₃, hrun₃, h₃, hT₃⟩ := compress_codes hs.host h₂ htree hvalid.1
  have hpar : u₃.par = s.par := (setting_eq_iff.mp h₃.setting).1
  obtain ⟨u₄, hrun₄, h₄, hT₄, -⟩ := compress_put hs.host h₃ hT₃ (bitsOf 32 s.par.magic.toNat) (i := .cMagic) rfl
    (by rw [← hpar]; rfl)
  obtain ⟨u₅, hrun₅, h₅, hT₅, -⟩ := compress_put hs.host h₄ hT₄ T.ser rfl (exec_cHeader_of_tree hT₄.tree)
  obtain ⟨u₆, hrun₆, h₆, hT₆, hpos₆⟩ := compress_rewind hs.host hcnt h₅ hT₅
  obtain ⟨u₇, hrun₇, h₇, hT₇, hpos₇⟩ := compress_body hs.host hs.stack hcnt h₆ hT₆ hpos₆
    fun b hb => (hmem _).mpr (.inr ⟨b, hb, rfl⟩)
  obtain ⟨hcode, hbits⟩ := hT₇.codes pseudoEof hvalid.2
  obtain ⟨u₈, hrun₈, h₈, hT₈, hpos₈⟩ := compress_put hs.host h₇ hT₇ (T.codeBits pseudoEof) rfl
    (by rw [← hbits]; exact exec_cEof_of_valid hcode)
  refine ⟨u₈, T, ?_, ?_, hT₈.tree, hvalid, hmem, hpos₈.trans hpos₇⟩
  · exact hrun₁.trans <| hrun₂.trans <| hrun₃.trans <| hrun₄.trans <| hrun₅.trans <| hrun₆.trans <| hrun₇.trans hrun₈
  · rw [show 2 * s.src.length + 2 = s.src.length + 1 + (s.src.length + 1) by omega]
    exact h₈

theorem nextsIn_closeOut (s : State) : nextsIn (closeOut s).trace = nextsIn s.trace := by
  by_cases h : s.wrCnt = 0
  · rw [closeOut_of_empty h]
    simp [snkClose, nextsIn]
  · rw [closeOut_of_pending h]
    simp [snkClose, snkPut, nextsIn]

/-- Settles O57: C_FLUSH closes the sink on the stream put. -/
theorem compressProducesTheStream : Obligations.CompressProducesTheStream := by
  intro s hi hp hhost hpos hout hopen hlen
  have hstack : s.stack = [] := stack_eq_nil hi (by simp [hp])
  have herr : s.err = 0 := err_eq_zero hi (by simp [hp])
  have hfit := fits_of_le ((inv_iff s).mp hi).1.counts.1 hlen
  obtain ⟨u, T, hrun, h, htree, hvalid, hmem, hend⟩ :=
    compress_stream (s := compressStart s) ⟨rfl, rfl, hstack, rfl⟩ rfl hpos hfit
  obtain ⟨-, -, hmode, herr', -, -, -⟩ := setting_eq_iff.mp h.setting
  have hflush : Reaches u (goto .done (closeOut u)) := h.reaches_whole rfl rfl rfl
  obtain ⟨k, hk⟩ := Reaches.exists_runSteps (.head (step_compress hp hhost) (hrun.trans hflush))
  refine ⟨k, _, T, hk, ?_, rfl, ?_, hvalid, hmem, ?_, ?_, ?_⟩
  · have herr₀ : (closeOut u).err = 0 := by rw [closeOut_err, herr']; exact herr
    have hmode₀ : (closeOut u).mode = 0 := by rw [closeOut_mode, hmode]; rfl
    rw [statusByte, goto_err, goto_mode, goto_phase, herr₀, hmode₀]
    rfl
  · rw [tree_goto, tree_congr (closeOut_node u) (closeOut_nodeCnt u) (closeOut_root u), htree]
  · exact out_closeOut_of_putBits (s := compressStart s) rfl rfl hopen hout h.packer
  · rw [goto_pos, closeOut_pos]
    exact hend
  · rw [goto_trace, nextsIn_closeOut]
    exact h.reads

end Sys2Proof.Proofs
end

section
/-! The body of the decompressor (R209, R210, R215): DEC.STEP by the bit it reads, and D_BODY as a walk that reads a
code, emits its byte and begins again at the root. -/

namespace Sys2Proof.Proofs

open Sys2Proof.Machine Sys2Proof.Laws

/-! ### Reading bits -/

theorem length_remaining (s : State) : (remaining s).length = bitsLeft s := by
  rw [remaining_eq, List.length_append, bitsOf_length, unpackBytes_length, List.length_drop, bitsLeft]

theorem getBits_took {s : State} {l m : BitString} (h : remaining s = l ++ m) :
    ∃ t, getBits l.length s = (some l, t) ∧ Took l s t ∧ remaining t = m := by
  obtain ⟨t, hbits, hrest⟩ := getBits_of_remaining h
  obtain rfl : (getBits l.length s).2 = t := congrArg Prod.snd hbits
  exact ⟨_, hbits, ⟨h.trans (congrArg _ hrest.symm), getBits_frame _ s⟩, hrest⟩

theorem getBit_took {s : State} {b : Bool} {z : BitString} (h : remaining s = b :: z) :
    ∃ t, getBit s = (some b, t) ∧ Took [b] s t ∧ remaining t = z := by
  obtain ⟨hbit, hrest⟩ := getBit_remaining s
  rw [h] at hbit hrest
  exact ⟨_, Prod.ext hbit rfl, ⟨h.trans (congrArg (b :: ·) hrest.symm), getBit_frame s⟩, hrest⟩

theorem getBit_of_nil {s : State} (h : remaining s = []) : getBit s = (none, (getBit s).2) :=
  Prod.ext ((getBit_remaining s).1.trans (congrArg List.head? h)) rfl

theorem tree_setCur (c : NodeIx) (s : State) : State.tree { s with cur := c } = s.tree := tree_congr rfl rfl rfl

theorem Took.childAt {l : BitString} {s t : State} (h : Took l s t) (b : Bool) :
    childAt t b t.cur = Proofs.childAt s b s.cur := by
  rw [h.frame]
  rfl

/-! ### DEC.STEP (R209) -/

theorem exec_decStep_of_end {s t : State} (h : getBit s = (none, t)) :
    exec .decStep s = .next (raise .truncatedStream t) := by
  rw [exec, execDecStep, decodeStep, h]
  rfl

theorem exec_decStep_of_edge {s t : State} {b : Bool} (h : getBit s = (some b, t)) :
    exec .decStep s = .next { (decodeEdge b t).2 with ret := stepRet (decodeEdge b t).1 } := by
  rw [exec_decStep_of_bit h, exec, execCodeword, decodePath_singleton]

/-- Settles O47: without a bit the step is an error; else the edge leads to an Internal node or to a leaf. -/
theorem decoderStep : Obligations.DecoderStep := by
  refine fun s => ⟨fun t h => exec_decStep_of_end h, fun b t c h hc => ?_⟩
  obtain rfl : (getBit s).2 = t := congrArg Prod.snd h
  have hframe := getBit_frame s
  have hedge := exec_decStep_of_edge h
  generalize (getBit s).2 = t at hframe hedge
  have hnode (i : NodeIx) : nodeAt t i = nodeAt s i := by rw [hframe]; rfl
  have hchild : childAt t b t.cur = c := by rw [hc, hframe]; rfl
  rw [← hnode c, ← hchild]
  refine ⟨fun hkind => ?_, fun hkind hvalue => ?_, fun hkind hvalue hcnt hacc hopen => ?_⟩
  · rw [hedge, decodeEdge_internal hkind]
    rfl
  · rw [hedge, decodeEdge_leaf hkind, hvalue]
    rfl
  · have hroot : t.root = s.root := by rw [hframe]
    have hout : t.out = s.out := by rw [hframe]
    rw [hedge, decodeEdge_leaf hkind, reachLeaf_byte hvalue _ (by rw [hframe]; exact hcnt)
      (by rw [hframe]; exact hacc) (by rw [hframe]; exact hopen), hroot, hout]
    rfl

/-! ### The rounds of D_BODY (R210) -/

/-- D_BODY with `n` rounds left after an edge: the walk ends where the edge stopped, or goes on. -/
def afterEdge (n : Nat) (r : Bool × State) : Res Unit := if r.1 then .ok () r.2 else decodeLoop n r.2

theorem decodeLoop_of_bit {s t : State} {b : Bool} (n : Nat) (h : getBit s = (some b, t)) :
    decodeLoop (n + 1) s = afterEdge n (decodeEdge b t) := by
  rw [decodeLoop, decodeStep, h]
  rfl

theorem decodeLoop_of_end {s t : State} (n : Nat) (h : getBit s = (none, t)) :
    decodeLoop (n + 1) s = .raised (raise .truncatedStream t) := by
  rw [decodeLoop, decodeStep, h]
  rfl

theorem exec_dBody (s : State) : exec .dBody s =
    (decodeLoop (bitsLeft s + 1) { s with cur := s.root }).toOutcome fun _ t => goto .dClose t := rfl

/-- Nothing is pending in the packer and the sink is open. -/
structure ReadyToPut (s : State) : Prop where
  wrCnt : s.wrCnt = 0
  wrAcc : s.wrAcc = 0
  snk : s.snk = .opened

/-- From `s` to `t` the walk of D_BODY has read the bits `b` and put the bytes `x` (R210). -/
structure Decoded (b : BitString) (x : List Byte) (s t : State) : Prop where
  bits : remaining s = b ++ remaining t
  out : t.out = s.out ++ x
  frame : t = { s with
    cur := t.cur, out := t.out, rdByte := t.rdByte, rdCnt := t.rdCnt, pos := t.pos, trace := t.trace }

namespace Decoded

variable {b c : BitString} {x y : List Byte} {s t u : State}

theorem trans (h : Decoded b x s t) (k : Decoded c y t u) : Decoded (b ++ c) (x ++ y) s u where
  bits := by rw [h.bits, k.bits, List.append_assoc]
  out := by rw [k.out, h.out, List.append_assoc]
  frame := by rw [k.frame, h.frame]

theorem ready (h : Decoded b x s t) (hs : ReadyToPut s) : ReadyToPut t := by
  rw [h.frame]
  exact ⟨hs.wrCnt, hs.wrAcc, hs.snk⟩

theorem tree (h : Decoded b x s t) : t.tree = s.tree := by
  rw [h.frame]
  exact tree_congr rfl rfl rfl

/-- The index the walk stands at is its own. -/
theorem setCur (h : Decoded b x s t) (i : NodeIx) : Decoded b x s { t with cur := i } where
  bits := h.bits
  out := h.out
  frame := by rw [h.frame]

/-- A byte put at the end of what was put. -/
theorem emit (h : Decoded b x s t) (v : Byte) (i : NodeIx) (l : List Txn) :
    Decoded b (x ++ [v]) s { t with cur := i, out := t.out ++ [v], trace := l } where
  bits := h.bits
  out := by rw [h.out, List.append_assoc]
  frame := by rw [h.frame]

end Decoded

theorem Took.decoded {b : BitString} {s t : State} (h : Took b s t) : Decoded b [] s t where
  bits := h.bits
  out := by rw [h.frame, List.append_nil]
  frame := by rw [h.frame]

/-- The bits of a code lead the rounds from an Internal node to a leaf of its symbol, with no leaf on the way. -/
theorem decodeLoop_code {s : State} {d w : Nat} {l r : SymbolTree} {y : Sym} {p z : BitString} (n : Nat)
    (ht : treeAt s d s.cur = some (.internal w l r)) (hp : (SymbolTree.internal w l r).code y = some p)
    (hbits : remaining s = p ++ z) :
    ∃ c t, Decoded p [] s t ∧ decodeLoop (n + p.length) s = afterEdge n (reachLeaf y c t) := by
  induction p generalizing s d w l r with
  | nil =>
    obtain ⟨b, q, hnil, -⟩ := code_internal hp
    cases hnil
  | cons b q ih =>
    obtain ⟨_, _, hcons, hq⟩ := code_internal hp
    obtain ⟨rfl, rfl⟩ := List.cons.inj hcons
    obtain ⟨-, d', hchild⟩ := treeAt_eq_internal ht
    have hchild := hchild b
    obtain ⟨t, hbit, htook, hrest⟩ := getBit_took hbits
    rw [← treeAt_congr htook.node htook.nodeCnt, ← htook.childAt] at hchild
    rw [List.length_cons, ← Nat.add_assoc, decodeLoop_of_bit _ hbit]
    generalize (if b then r else l) = T at hq hchild
    cases T with
    | leaf v x =>
      obtain ⟨hkind, rfl⟩ := treeAt_eq_leaf hchild
      rw [SymbolTree.code] at hq
      split at hq <;> cases hq
      next hv => exact ⟨_, t, htook.decoded, by rw [decodeEdge_leaf hkind, hv]; rfl⟩
    | internal x l' r' =>
      obtain ⟨hkind, -⟩ := treeAt_eq_internal hchild
      rw [decodeEdge_internal hkind]
      obtain ⟨c, u, hu, hloop⟩ := ih ((treeAt_setCur _ t d' _).trans hchild) hq hrest
      exact ⟨c, u, (htook.decoded.setCur _).trans hu, hloop⟩

/-- A leaf's byte is put, and the walk is back at the root. -/
theorem decodeLoop_symbol {s : State} {d w : Nat} {l r : SymbolTree} {y : Sym} {p z : BitString} (n : Nat)
    (ht : treeAt s d s.cur = some (.internal w l r)) (hp : (SymbolTree.internal w l r).code y = some p)
    (hbits : remaining s = p ++ z) (hs : ReadyToPut s) (hy : y ≠ pseudoEof) :
    ∃ t, decodeLoop (n + p.length) s = decodeLoop n t ∧ Decoded p [byteOfSym y] s t ∧ t.cur = t.root := by
  obtain ⟨c, t, hd, hloop⟩ := decodeLoop_code n ht hp hbits
  obtain ⟨hcnt, hacc, hopen⟩ := hd.ready hs
  rw [reachLeaf_byte hy c hcnt hacc hopen] at hloop
  exact ⟨_, hloop, hd.emit _ _ _, rfl⟩

/-- The code of 256 ends the rounds. -/
theorem decodeLoop_eof {s : State} {d w : Nat} {l r : SymbolTree} {p z : BitString} (n : Nat)
    (ht : treeAt s d s.cur = some (.internal w l r)) (hp : (SymbolTree.internal w l r).code pseudoEof = some p)
    (hbits : remaining s = p ++ z) : ∃ t, decodeLoop (n + p.length) s = .ok () t ∧ Decoded p [] s t := by
  obtain ⟨c, t, hd, hloop⟩ := decodeLoop_code n ht hp hbits
  exact ⟨_, hloop, hd.setCur c⟩

theorem byteOfSym_symOfByte (b : Byte) : byteOfSym (symOfByte b) = b := by
  rw [byteOfSym, symOfByte_val, BitVec.ofNat_toNat, BitVec.setWidth_eq]

theorem code_eq_codeBits {T : SymbolTree} {y : Sym} (h : y ∈ T.values) : T.code y = some (T.codeBits y) := by
  obtain ⟨p, hp⟩ := exists_code_of_mem h
  rw [SymbolTree.codeBits, hp]
  rfl

theorem exists_internal_of_two_le {T : SymbolTree} (h : 2 ≤ T.leaves) : ∃ w l r, T = .internal w l r := by
  cases T with
  | leaf v w => exact absurd h (Nat.not_succ_le_self 1)
  | internal w l r => exact ⟨w, l, r, rfl⟩

/-- Code after code, D_BODY puts the bytes and stops after the code of 256 (R210, R212). -/
theorem decodeLoop_body {s : State} {T : SymbolTree} {x : List Byte} {p z : BitString} (n : Nat)
    (ht : s.tree = some T) (hleaves : 2 ≤ T.leaves) (heof : pseudoEof ∈ T.values)
    (hx : ∀ b ∈ x, symOfByte b ∈ T.values) (hcur : s.cur = s.root) (hs : ReadyToPut s)
    (hp : p = (x.flatMap fun b => T.codeBits (symOfByte b)) ++ T.codeBits pseudoEof) (hbits : remaining s = p ++ z) :
    ∃ t, decodeLoop (n + p.length) s = .ok () t ∧ Decoded p x s t := by
  obtain ⟨w, l, r, hT⟩ := exists_internal_of_two_le hleaves
  have hstand (u : State) (hu : u.tree = some T) (hc : u.cur = u.root) :
      treeAt u maxDepth u.cur = some (.internal w l r) := by rw [hc, ← hT]; exact hu
  induction x generalizing s p with
  | nil =>
    obtain rfl : p = T.codeBits pseudoEof := hp
    exact decodeLoop_eof n (hstand s ht hcur) (hT ▸ code_eq_codeBits heof) hbits
  | cons b x ih =>
    obtain ⟨hb, hx⟩ := List.forall_mem_cons.mp hx
    rw [List.flatMap_cons, List.append_assoc] at hp
    subst hp
    rw [List.append_assoc] at hbits
    rw [List.length_append, Nat.add_left_comm, Nat.add_comm]
    obtain ⟨t, hloop, hd, hroot⟩ := decodeLoop_symbol _ (hstand s ht hcur) (hT ▸ code_eq_codeBits hb) hbits hs
      (symOfByte_ne_pseudoEof b)
    obtain ⟨u, hend, hu⟩ := ih (hd.tree.trans ht) hx hroot (hd.ready hs) rfl
      (List.append_cancel_left (hd.bits.symm.trans hbits))
    rw [byteOfSym_symOfByte] at hd
    exact ⟨u, hloop.trans hend, hd.trans hu⟩

/-- Settles O54: the bits left are more than enough rounds for the body. -/
theorem bodyDecodesItsSymbols : Obligations.BodyDecodesItsSymbols := by
  intro s T x z ht hleaves heof hx hbits hcnt hacc hopen
  have hfuel := congrArg List.length hbits
  rw [length_remaining, List.length_append] at hfuel
  obtain ⟨t, hloop, hd⟩ := decodeLoop_body (s := { s with cur := s.root }) (z.length + 1)
    ((tree_setCur _ s).trans ht) hleaves heof hx rfl ⟨hcnt, hacc, hopen⟩ rfl hbits
  refine ⟨goto .dClose t, ?_, rfl, hd.out, List.append_cancel_left (hd.bits.symm.trans hbits), ?_⟩
  · rw [exec_dBody, hfuel, Nat.add_assoc, Nat.add_comm, hloop]
    rfl
  · rw [hd.frame]
    rfl

/-! ### A tree without a leaf 256 (R215) -/

/-- A tree of two or more leaves, none of them 256: no walk in it stops. -/
def Endless (T : SymbolTree) : Prop := 2 ≤ T.leaves ∧ pseudoEof ∉ T.values

theorem two_le_leaves_internal (w : Nat) (l r : SymbolTree) : 2 ≤ (SymbolTree.internal w l r).leaves := by
  rw [leaves_eq_internals_succ, SymbolTree.internals]
  omega

/-- The walk stands at an Internal node of a tree in which it never stops. -/
structure WalksEndless (s : State) : Prop where
  tree : ∃ T, s.tree = some T ∧ Endless T
  node : ∃ d U, treeAt s d s.cur = some U ∧ Endless U

theorem WalksEndless.of_root {s : State} (h : ∃ T, s.tree = some T ∧ Endless T) (hcur : s.cur = s.root) :
    WalksEndless s where
  tree := h
  node := by
    rw [hcur]
    exact ⟨maxDepth, h⟩

/-- All an edge of the walk can change. -/
theorem decodeEdge_frame (b : Bool) (s : State) : (decodeEdge b s).2 = { s with
    cur := (decodeEdge b s).2.cur, wrAcc := (decodeEdge b s).2.wrAcc, wrCnt := (decodeEdge b s).2.wrCnt,
    out := (decodeEdge b s).2.out, fresh := (decodeEdge b s).2.fresh, trace := (decodeEdge b s).2.trace } := by
  cases hkind : (nodeAt s (childAt s b s.cur)).kind with
  | internal => rw [decodeEdge_internal hkind]
  | leaf =>
    rw [decodeEdge_leaf hkind, reachLeaf]
    split
    · rfl
    · dsimp only
      rw [writeBits, putBits_frame]

theorem tree_decodeEdge (b : Bool) (s : State) : (decodeEdge b s).2.tree = s.tree := by
  rw [decodeEdge_frame]
  exact tree_congr rfl rfl rfl

theorem remaining_decodeEdge (b : Bool) (s : State) : remaining (decodeEdge b s).2 = remaining s := by
  rw [decodeEdge_frame]
  rfl

theorem WalksEndless.took {l : BitString} {s t : State} (h : WalksEndless s) (ht : Took l s t) : WalksEndless t := by
  obtain ⟨⟨T, htree, hT⟩, d, U, hnode, hU⟩ := h
  refine ⟨⟨T, ht.decoded.tree.trans htree, hT⟩, d, U, ?_, hU⟩
  rw [treeAt_congr ht.node ht.nodeCnt, ht.frame]
  exact hnode

/-- At the leaf of a byte the walk goes back to the root. -/
theorem decodeEdge_byte {s : State} {b : Bool} (hkind : (nodeAt s (childAt s b s.cur)).kind = .leaf)
    (hvalue : (nodeAt s (childAt s b s.cur)).value ≠ pseudoEof) :
    (decodeEdge b s).1 = false ∧ (decodeEdge b s).2.cur = (decodeEdge b s).2.root := by
  have hroot : (decodeEdge b s).2.root = s.root := by rw [decodeEdge_frame]
  rw [hroot, decodeEdge_leaf hkind, reachLeaf, if_neg hvalue]
  exact ⟨rfl, rfl⟩

/-- An edge leads on to an Internal node, or by a leaf of a byte back to the root. -/
theorem WalksEndless.edge {s : State} (h : WalksEndless s) (b : Bool) :
    (decodeEdge b s).1 = false ∧ WalksEndless (decodeEdge b s).2 := by
  obtain ⟨htree, d, U, hnode, hleaves, heof⟩ := h
  rw [← tree_decodeEdge b s] at htree
  obtain ⟨w, l, r, rfl⟩ := exists_internal_of_two_le hleaves
  obtain ⟨-, d', hchild⟩ := treeAt_eq_internal hnode
  have hchild := hchild b
  have hvalues : pseudoEof ∉ (if b then r else l).values := fun h => heof <| by
    rw [SymbolTree.values, List.mem_append]
    cases b
    · exact .inl h
    · exact .inr h
  generalize (if b then r else l) = V at hchild hvalues
  cases V with
  | leaf v x =>
    obtain ⟨hkind, rfl⟩ := treeAt_eq_leaf hchild
    obtain ⟨hgo, hcur⟩ := decodeEdge_byte hkind fun h => hvalues (List.mem_singleton.mpr h.symm)
    exact ⟨hgo, .of_root htree hcur⟩
  | internal x l' r' =>
    obtain ⟨hkind, -⟩ := treeAt_eq_internal hchild
    rw [decodeEdge_internal hkind] at htree ⊢
    exact ⟨rfl, htree, d', _, (treeAt_setCur _ s d' _).trans hchild, two_le_leaves_internal x l' r', hvalues⟩

/-- A walk that never stops meets the end of the source (R215, R233). -/
theorem decodeLoop_endless {n : Nat} {s : State} (h : WalksEndless s) (hn : (remaining s).length < n) :
    ∃ t, decodeLoop n s = .raised (raise .truncatedStream t) := by
  induction n generalizing s with
  | zero => exact absurd hn (Nat.not_lt_zero _)
  | succ n ih =>
    cases hbits : remaining s with
    | nil => exact ⟨_, decodeLoop_of_end n (getBit_of_nil hbits)⟩
    | cons b z =>
      obtain ⟨t, hbit, htook, hrest⟩ := getBit_took hbits
      obtain ⟨hgo, hwalk⟩ := (h.took htook).edge b
      rw [decodeLoop_of_bit n hbit, afterEdge, hgo]
      refine ih hwalk ?_
      rw [remaining_decodeEdge, hrest]
      rw [hbits, List.length_cons] at hn
      exact Nat.lt_of_succ_lt_succ hn

/-- Settles O55: from the root the walk never stops, and there are more rounds than bits left. -/
theorem bodyWithoutEndMarkerIsTruncated : Obligations.BodyWithoutEndMarkerIsTruncated := by
  intro s T ht hleaves heof
  have hstart : WalksEndless { s with cur := s.root } :=
    .of_root ⟨T, (tree_setCur _ s).trans ht, hleaves, heof⟩ rfl
  have hn : (remaining { s with cur := s.root }).length < bitsLeft s + 1 :=
    Nat.lt_succ_of_le (length_remaining _).le
  obtain ⟨t, hloop⟩ := decodeLoop_endless hstart hn
  refine ⟨raise .truncatedStream t, ?_, raise_phase _ t, raise_err _ t⟩
  rw [exec_dBody, hloop]
  rfl

end Sys2Proof.Proofs
end

section
/-! The phases of the decompressor before and after the body (R206, R207, R208, R211). -/

namespace Sys2Proof.Proofs

open Sys2Proof.Machine Sys2Proof.Laws

/-! ### D_MAGIC (R206, R231) -/

theorem checkMagic_of_eq {m : BitVec 32} {s : State} (h : m = s.par.magic) : checkMagic m s = goto .dHeader s :=
  if_pos h

theorem checkMagic_of_ne {m : BitVec 32} {s : State} (h : m ≠ s.par.magic) :
    checkMagic m s = raise .formatMismatch s := if_neg h

/-- With 32 bits left D_MAGIC checks the marker they spell. -/
theorem exec_dMagic_of_bits {s : State} {m : BitVec 32} {z : BitString} (h : remaining s = bitsOf 32 m.toNat ++ z) :
    ∃ t, getBits 32 s = (some (bitsOf 32 m.toNat), t) ∧ Took (bitsOf 32 m.toNat) s t ∧ remaining t = z ∧
      exec .dMagic s = .next (checkMagic m t) := by
  obtain ⟨t, hbits, htook, hrest⟩ := getBits_took h
  rw [bitsOf_length] at hbits
  refine ⟨t, hbits, htook, hrest, ?_⟩
  rw [exec, execDMagic, readBits, hbits]
  dsimp only
  rw [ofNat_numeral_bitsOf]

/-- With fewer left it takes format-mismatch. -/
theorem exec_dMagic_of_short {s : State} (h : (remaining s).length < 32) :
    exec .dMagic s = .next (raise .formatMismatch (getBits 32 s).2) := by
  have hbits : getBits 32 s = (none, (getBits 32 s).2) :=
    Prod.ext ((getBits_remaining 32 s).1.trans (if_neg (Nat.not_le.mpr h))) rfl
  rw [exec, execDMagic, readBits, hbits]

/-- A bit delivered is one more of the eight that a byte fetched holds (R124). -/
theorem nextsIn_getBit {s t : State} {b : Bool} (h : getBit s = (some b, t)) (hs : s.rdCnt.val < 8) :
    t.rdCnt.val < 8 ∧ 8 * nextsIn t.trace + s.rdCnt.val = 8 * nextsIn s.trace + t.rdCnt.val + 1 := by
  obtain hheld | ⟨hcnt, r, hr⟩ | ⟨hcnt, hr⟩ := unpacker_cases s
  · rw [getBit_of_held hheld] at h
    obtain ⟨-, rfl⟩ := Prod.mk.inj h
    dsimp only
    omega
  · rw [getBit_of_fetch hcnt hr] at h
    obtain ⟨-, rfl⟩ := Prod.mk.inj h
    rw [nextsIn_concat_srcNext, hcnt]
    exact ⟨Nat.lt_succ_self 7, Nat.mul_succ 8 _⟩
  · rw [getBit_of_end hcnt hr] at h
    cases (Prod.mk.inj h).1

theorem nextsIn_getBits {n : Nat} {s t : State} {l : BitString} (h : getBits n s = (some l, t))
    (hs : s.rdCnt.val < 8) :
    t.rdCnt.val < 8 ∧ 8 * nextsIn t.trace + s.rdCnt.val = 8 * nextsIn s.trace + t.rdCnt.val + n := by
  induction n generalizing s l with
  | zero =>
    obtain ⟨-, rfl⟩ := Prod.mk.inj h
    exact ⟨hs, rfl⟩
  | succ n ih =>
    rcases hbit : getBit s with ⟨_ | b, u⟩
    · rw [getBits_succ_of_end n hbit] at h
      cases (Prod.mk.inj h).1
    · rw [getBits_succ_of_bit n hbit] at h
      obtain ⟨hl, hu⟩ := Prod.mk.inj h
      obtain ⟨m, hm, -⟩ := Option.map_eq_some_iff.mp hl
      obtain ⟨hcnt, hnexts⟩ := nextsIn_getBit hbit hs
      obtain ⟨hcnt', hnexts'⟩ := ih (Prod.ext hm hu) hcnt
      exact ⟨hcnt', by omega⟩

theorem nextsIn_raise (e : ErrKind) (s : State) : nextsIn (raise e s).trace = nextsIn s.trace := by
  by_cases h : s.phase = .idle
  · rw [raise_idle e s h]
  · rw [raise_working e s h]
    simp [nextsIn]

/-- Settles O49: the marker is the first 32 bits; from an empty unpacker those are four bytes. -/
theorem magicIsChecked : Obligations.MagicIsChecked := by
  intro s
  refine ⟨congrArg _ (checkMagic_of_eq rfl), fun m hm => congrArg _ (checkMagic_of_ne hm), fun z hbits => ?_,
    fun m z hm hbits => ?_, fun hshort => ?_⟩
  · obtain ⟨t, -, htook, hrest, hexec⟩ := exec_dMagic_of_bits hbits
    rw [checkMagic_of_eq (by rw [htook.frame])] at hexec
    refine ⟨_, hexec, rfl, hrest, ?_⟩
    rw [htook.frame]
    rfl
  · obtain ⟨t, hread, htook, -, hexec⟩ := exec_dMagic_of_bits hbits
    rw [checkMagic_of_ne (by rw [htook.frame]; exact hm)] at hexec
    refine ⟨_, hexec, raise_phase _ t, raise_err _ t, fun hcnt => ?_⟩
    obtain ⟨hlt, hnexts⟩ := nextsIn_getBits hread (by rw [hcnt]; decide)
    rw [hcnt, Fin.val_zero] at hnexts
    rw [nextsIn_raise]
    omega
  · exact ⟨_, exec_dMagic_of_short hshort, raise_phase _ _, raise_err _ _⟩

/-! ### D_HEADER (R207) -/

theorem exec_dHeader (s : State) : exec .dHeader s =
    (deserialize maxDepth (initHeader s)).toOutcome fun n t => goto .dRootchk { t with root := n } := rfl

theorem tree_setRoot (i : NodeIx) (s : State) : State.tree { s with root := i } = treeAt s maxDepth i :=
  treeAt_congr (s := s) (t := { s with root := i }) rfl rfl maxDepth i

/-- Settles O53: the phase is HDR.DES after HDR.INIT, from where the tree fits. -/
theorem headerPhaseReadsTheTree : Obligations.HeaderPhaseReadsTheTree := by
  intro s T z hT hbits
  obtain ⟨hfits, hheight⟩ := fits_after_init (s := initHeader s) hT rfl rfl fun y => get_table _ y
  obtain ⟨n, t, hdes, hreads⟩ := deserialize_of_ser (s := initHeader s) hbits hfits hheight
  obtain rfl : n = 0 := Fin.ext hreads.index
  refine ⟨goto .dRootchk { t with root := 0 }, by rw [exec_dHeader, hdes]; rfl, rfl, rfl, ?_, ?_, ?_⟩
  · exact (tree_goto _ _).trans ((tree_setRoot 0 t).trans (hreads.treeAt hheight))
  · exact List.append_cancel_left (hreads.bits.symm.trans hbits)
  · rw [hreads.frame]
    rfl

/-! ### D_ROOTCHK and D_CLOSE (R208, R211) -/

theorem exec_dRootchk_of_leaf {s : State} (h : (nodeAt s s.root).kind = .leaf) :
    exec .dRootchk s = .next (goto .dClose s) := by
  rw [exec, execDRootchk, h]

theorem exec_dRootchk_of_internal {s : State} (h : (nodeAt s s.root).kind = .internal) :
    exec .dRootchk s = .next (goto .dBody s) := by
  rw [exec, execDRootchk, h]

theorem exec_dClose_of_empty {s : State} (h : s.wrCnt = 0) : exec .dClose s = .next (goto .done (snkClose s)) := by
  rw [← closeOut_of_empty h]
  rfl

/-- Settles O50: the check looks at the kind only; CLOSE with nothing pending puts no byte. -/
theorem rootCheckAndClose : Obligations.RootCheckAndClose :=
  fun _ => ⟨exec_dRootchk_of_leaf, exec_dRootchk_of_internal, ⟨_, rfl, rfl⟩, exec_dClose_of_empty⟩

end Sys2Proof.Proofs
end

section
/-! DECOMPRESS as a whole (R205, R212): phase after phase the machine has read a longer beginning of the stream, and
the closed sink holds its symbols. -/

namespace Sys2Proof.Proofs

open Sys2Proof.Machine Sys2Proof.Laws

/-! ### A tree read without its weights (R182) -/

theorem values_unweighted (T : SymbolTree) : T.unweighted.values = T.values := by
  induction T with
  | leaf v w => rfl
  | internal w l r ihl ihr => rw [SymbolTree.unweighted, SymbolTree.values, SymbolTree.values, ihl, ihr]

theorem leaves_unweighted (T : SymbolTree) : T.unweighted.leaves = T.leaves := by
  rw [← length_values, values_unweighted, length_values]

theorem code_unweighted (T : SymbolTree) (y : Sym) : T.unweighted.code y = T.code y := by
  induction T with
  | leaf v w => rfl
  | internal w l r ihl ihr => rw [SymbolTree.unweighted, SymbolTree.code, SymbolTree.code, ihl, ihr]

theorem codeBits_unweighted (T : SymbolTree) (y : Sym) : T.unweighted.codeBits y = T.codeBits y :=
  congrArg (Option.getD · []) (code_unweighted T y)

/-! ### What every phase of DECOMPRESS keeps -/

/-- What no phase of DECOMPRESS before D_CLOSE changes when it meets no error: only whole bytes are put. -/
def held (s : State) : List Frame × List HostEvent × Fin 8 × BitVec 8 × Snk × BitVec 1 × BitVec 3 :=
  (s.stack, s.host, s.wrCnt, s.wrAcc, s.snk, s.mode, s.err)

/-- The machine is at the start of phase `p` of a decompression: it has put the bytes `x`, and the bits `z` are left. -/
structure Decompressing (p : Phase) (x : List Byte) (z : BitString) (s : State) : Prop where
  start : AtStart p s
  ready : ReadyToPut s
  mode : s.mode = 1
  err : s.err = 0
  out : s.out = x
  bits : remaining s = z

section

variable {p q : Phase} {x y : List Byte} {z z' : BitString} {s t : State} {T : SymbolTree}

/-- A phase done, and the transfer to the next. -/
theorem Decompressing.goes (h : Decompressing p x z s) (hphase : t.phase = q) (hmicro : t.micro = .start)
    (hheld : held t = held s) (hout : t.out = y) (hbits : remaining t = z') : Decompressing q y z' t := by
  simp only [held, Prod.mk.injEq] at hheld
  obtain ⟨hstack, hhost, hcnt, hacc, hsnk, hmode, herr⟩ := hheld
  obtain ⟨⟨-, -, hstack', hhost'⟩, ⟨hcnt', hacc', hsnk'⟩, hmode', herr', -, -⟩ := h
  exact ⟨⟨hphase, hmicro, hstack.trans hstack', hhost.trans hhost'⟩,
    ⟨hcnt.trans hcnt', hacc.trans hacc', hsnk.trans hsnk'⟩, hmode.trans hmode', herr.trans herr', hout, hbits⟩

theorem Decompressing.reaches_whole (h : Decompressing p x z s) {i : Instr} (hi : wholePhase p = some i)
    (hexec : exec i s = .next t) : Reaches s t :=
  .single ((step_whole h.start.host (by rw [h.start.phase]; exact hi)).trans hexec)

/-! ### The phases in their order (R205) -/

/-- D_MAGIC on the marker (R206). -/
theorem decompress_magic (h : Decompressing .dMagic x (bitsOf 32 s.par.magic.toNat ++ z) s) :
    ∃ t, Reaches s t ∧ Decompressing .dHeader x z t := by
  obtain ⟨-, -, hmagic, -⟩ := magicIsChecked s
  obtain ⟨t, hexec, hphase, hbits, hframe⟩ := hmagic z h.bits
  exact ⟨t, .single ((step_magic h.start.host h.start.phase).trans hexec), h.goes hphase (by rw [hframe])
    (by rw [hframe]; rfl) (by rw [hframe, h.out]) hbits⟩

/-- D_HEADER on a header (R207). -/
theorem decompress_header (h : Decompressing .dHeader x (T.ser ++ z) s) (hT : T.distinct) :
    ∃ t, Reaches s t ∧ Decompressing .dRootchk x z t ∧ t.tree = some T.unweighted := by
  obtain ⟨t, hexec, hphase, -, htree, hbits, hframe⟩ := headerPhaseReadsTheTree s T z hT h.bits
  exact ⟨t, headerPhase_reaches h.start hexec, h.goes hphase (by rw [hframe]) (by rw [hframe]; rfl)
    (by rw [hframe, h.out]) hbits, htree⟩

/-- D_ROOTCHK on a lone leaf (R208). -/
theorem decompress_root_leaf (h : Decompressing .dRootchk x z s) {v : Sym} {w : Nat} (ht : s.tree = some (.leaf v w)) :
    ∃ t, Reaches s t ∧ Decompressing .dClose x z t := by
  obtain ⟨hkind, -⟩ := treeAt_eq_leaf ht
  exact ⟨_, h.reaches_whole rfl (exec_dRootchk_of_leaf hkind), h.goes rfl rfl rfl h.out h.bits⟩

/-- D_ROOTCHK on a tree with two or more leaves (R208). -/
theorem decompress_root_internal (h : Decompressing .dRootchk x z s) (ht : s.tree = some T) (hT : 2 ≤ T.leaves) :
    ∃ t, Reaches s t ∧ Decompressing .dBody x z t ∧ t.tree = some T := by
  obtain ⟨w, l, r, rfl⟩ := exists_internal_of_two_le hT
  obtain ⟨hkind, -⟩ := treeAt_eq_internal ht
  exact ⟨_, h.reaches_whole rfl (exec_dRootchk_of_internal hkind), h.goes rfl rfl rfl h.out h.bits,
    (tree_goto _ s).trans ht⟩

/-- D_BODY on the codes of the bytes `y` and that of 256 (R210). -/
theorem decompress_body (ht : s.tree = some T) (hT : 2 ≤ T.leaves) (heof : pseudoEof ∈ T.values)
    (hy : ∀ b ∈ y, symOfByte b ∈ T.values) 
    (h : Decompressing .dBody x ((y.flatMap fun b => T.codeBits (symOfByte b)) ++ T.codeBits pseudoEof ++ z) s) :
    ∃ t, Reaches s t ∧ Decompressing .dClose (x ++ y) z t := by
  obtain ⟨hcnt, hacc, hopen⟩ := h.ready
  obtain ⟨t, hexec, hphase, hout, hbits, hframe⟩ :=
    bodyDecodesItsSymbols s T y z ht hT heof hy h.bits hcnt hacc hopen
  exact ⟨t, decodePhase_reaches h.start hexec, h.goes hphase (by rw [hframe]) (by rw [hframe]; rfl)
    (by rw [hout, h.out]) hbits⟩

/-- D_CLOSE (R211): the end, with STATUS 0x22. -/
theorem decompress_close (h : Decompressing .dClose x z s) :
    ∃ t, Reaches s t ∧ statusByte t = 0x22#8 ∧ t.snk = .closed ∧ t.out = x := by
  refine ⟨_, h.reaches_whole rfl (exec_dClose_of_empty h.ready.wrCnt), ?_, rfl, h.out⟩
  rw [statusByte, goto_err, goto_mode, goto_phase, snkClose_err, snkClose_mode, h.err, h.mode]
  rfl

end

/-! ### DECOMPRESS -/

/-- The start of D_MAGIC after DECOMPRESS (R222, R127). -/
def decompressStart (s : State) : State := goto .dMagic (initChannel { s with host := [], mode := 1 })

theorem step_decompress {s : State} (hp : s.phase = .idle) (hhost : s.host = [.write 0x02#8]) :
    step s = .next (decompressStart s) := by
  rw [step_host hhost]
  exact if_pos hp

theorem decompressing_start {s : State} (hi : s.Inv) (hp : s.phase = .idle) (hpos : s.pos = 0)
    (hopen : s.snk = .opened) : Decompressing .dMagic s.out (unpackBytes s.src) (decompressStart s) := by
  have hstack : s.stack = [] := stack_eq_nil hi (by simp [hp])
  have herr : s.err = 0 := err_eq_zero hi (by simp [hp])
  refine ⟨⟨rfl, rfl, hstack, rfl⟩, ⟨rfl, rfl, hopen⟩, rfl, herr, rfl, ?_⟩
  change unpackBytes (s.src.drop s.pos) = unpackBytes s.src
  rw [hpos, List.drop_zero]

section

variable {x y : List Byte} {z : BitString} {s : State} {T : SymbolTree}

/-- A marker and a header read. -/
theorem decompress_to_root (hT : T.distinct)
    (h : Decompressing .dMagic x (bitsOf 32 s.par.magic.toNat ++ (T.ser ++ z)) s) :
    ∃ t, Reaches s t ∧ Decompressing .dRootchk x z t ∧ t.tree = some T.unweighted := by
  obtain ⟨t₁, hrun₁, h₁⟩ := decompress_magic h
  obtain ⟨t₂, hrun₂, h₂, htree⟩ := decompress_header h₁ hT
  exact ⟨t₂, hrun₁.trans hrun₂, h₂, htree⟩

/-- The stream of a tree with two or more leaves comes to D_CLOSE with its symbols put (R212). -/
theorem decompress_stream (hT : T.valid) (hleaves : 2 ≤ T.leaves) (hy : ∀ b ∈ y, symOfByte b ∈ T.values)
    (h : Decompressing .dMagic x (streamBits s.par.magic T y ++ z) s) :
    ∃ t, Reaches s t ∧ Decompressing .dClose (x ++ y) z t := by
  simp only [streamBits, List.append_assoc] at h
  obtain ⟨t₁, hrun₁, h₁, htree₁⟩ := decompress_to_root hT.1 h
  rw [← leaves_unweighted] at hleaves
  obtain ⟨t₂, hrun₂, h₂, htree₂⟩ := decompress_root_internal h₁ htree₁ hleaves
  have hbody : (y.flatMap fun b => T.codeBits (symOfByte b)) ++ (T.codeBits pseudoEof ++ z) =
      (y.flatMap fun b => T.unweighted.codeBits (symOfByte b)) ++ T.unweighted.codeBits pseudoEof ++ z := by
    simp only [codeBits_unweighted, List.append_assoc]
  obtain ⟨t₃, hrun₃, h₃⟩ := decompress_body htree₂ hleaves (by rw [values_unweighted]; exact hT.2)
    (by rw [values_unweighted]; exact hy) (hbody ▸ h₂)
  exact ⟨t₃, hrun₁.trans (hrun₂.trans hrun₃), h₃⟩

/-- The header of a lone leaf comes to D_CLOSE with nothing put (R208). -/
theorem decompress_lone_leaf (hT : T.leaves = 1)
    (h : Decompressing .dMagic x (bitsOf 32 s.par.magic.toNat ++ T.ser ++ z) s) :
    ∃ t, Reaches s t ∧ Decompressing .dClose x z t := by
  rw [List.append_assoc] at h
  cases T with
  | leaf v w =>
    obtain ⟨t₁, hrun₁, h₁, htree⟩ := decompress_to_root (T := .leaf v w) (List.nodup_singleton v) h
    obtain ⟨t₂, hrun₂, h₂⟩ := decompress_root_leaf h₁ htree
    exact ⟨t₂, hrun₁.trans hrun₂, h₂⟩
  | internal w l r => exact absurd (two_le_leaves_internal w l r) (by rw [hT]; decide)

end

/-- From a command of the host to the end of D_CLOSE. -/
theorem decompress_end {s u v : State} {x : List Byte} {z : BitString} (hfirst : step s = .next u) (hrun : Reaches u v)
    (h : Decompressing .dClose x z v) :
    ∃ k t, runSteps k s = .next t ∧ statusByte t = 0x22#8 ∧ t.snk = .closed ∧ t.out = x := by
  obtain ⟨t, hclose, hstatus, hsnk, hout⟩ := decompress_close h
  obtain ⟨k, hk⟩ := Reaches.exists_runSteps (.head hfirst (hrun.trans hclose))
  exact ⟨k, t, hk, hstatus, hsnk, hout⟩

/-- Settles O58: the five phases in their order; at a lone leaf the body is left out. -/
theorem decompressReturnsTheSymbols : Obligations.DecompressReturnsTheSymbols := by
  intro s T x z hi hp hhost hpos hout hopen
  have hfirst := step_decompress hp hhost
  have hstart := decompressing_start hi hp hpos hopen
  rw [hout] at hstart
  refine ⟨fun hT hleaves hx hsrc => ?_, fun hleaves hsrc => ?_⟩
  · obtain ⟨v, hrun, hv⟩ := decompress_stream (s := decompressStart s) hT hleaves hx (hsrc ▸ hstart)
    exact decompress_end hfirst hrun hv
  · obtain ⟨v, hrun, hv⟩ := decompress_lone_leaf (s := decompressStart s) hleaves (hsrc ▸ hstart)
    exact decompress_end hfirst hrun hv

end Sys2Proof.Proofs
end

section
/-! COMPRESS, CLEAR and DECOMPRESS one after the other (R213): the packed stream is presented as a source, and it is
the stream of a valid tree with at most seven bits after it. -/

namespace Sys2Proof.Proofs

open Sys2Proof.Machine Sys2Proof.Laws

/-! ### What every step keeps, along a run -/

theorem par_of_ite {c : Prop} [Decidable c] {s t u v : State} (hu : u.par = s.par) (hv : v.par = s.par)
    (h : (if c then (.next u : Host.Outcome State Fault Refusal) else .next v) = .next t) : t.par = s.par := by
  split at h
  · exact Host.Outcome.next.inj h ▸ hu
  · exact Host.Outcome.next.inj h ▸ hv

/-- A command writes no parameter (R36). -/
theorem command_par {s t : State} (c : Byte) (h : exec (decodeCmd c) s = .next t) : t.par = s.par := by
  rcases decodeCmd_cases c with hc | hc | hc | hc | hc <;> rw [hc] at h
  · exact Host.Outcome.next.inj h ▸ rfl
  · exact par_of_ite (u := goto .cCount (initChannel { s with mode := 0 })) rfl rfl h
  · exact par_of_ite (u := goto .dMagic (initChannel { s with mode := 1 })) rfl rfl h
  · exact par_of_ite (v := resetAll s) rfl rfl h
  · exact par_of_ite (raise_par .illegalCommand s) rfl h

/-- No step writes a parameter (R36). -/
theorem step_par {s t : State} (h : step s = .next t) : t.par = s.par := by
  have hcontroller {u : State} (hu : controllerTurn u = .next t) : t.par = u.par :=
    congrArg Tables.par (controllerTurn_turnIn hu).tables
  cases hhost : s.host with
  | nil => exact hcontroller (step_quiet hhost ▸ h)
  | cons e rest =>
    have hturn : hostTurn e { s with host := rest } = .next t := step_host hhost ▸ h
    cases e with
    | write c => exact (command_par c hturn).trans rfl
    | readStatus | reset | source bytes pos | sink | stall => exact Host.Outcome.next.inj hturn ▸ rfl
    | wait => exact (hcontroller hturn).trans rfl

theorem runSteps_succ_eq_next {k : Nat} {s t : State} (h : runSteps (k + 1) s = .next t) :
    ∃ u, step s = .next u ∧ runSteps k u = .next t := by
  have hcore : core.step s = step s := rfl
  cases hu : step s with
  | next u => exact ⟨u, rfl, (runSteps_succ hu k).symm.trans h⟩
  | fault e | refused e =>
    simp only [runSteps, Host.Core.run, hcore, hu] at h
    cases h

/-- What every step keeps a run keeps. -/
theorem runSteps_keeps {P : State → Prop} (hstep : ∀ s t, P s → step s = .next t → P t) {k : Nat} {s t : State}
    (hs : P s) (h : runSteps k s = .next t) : P t := by
  induction k generalizing s with
  | zero => exact Host.Outcome.next.inj h ▸ hs
  | succ k ih =>
    obtain ⟨u, hu, hrest⟩ := runSteps_succ_eq_next h
    exact ih (hstep s u hs hu) hrest

/-! ### The stream in the source -/

/-- The bytes of a packed string spell it and its padding (R201, R64). -/
theorem unpackBytes_packBits (l : BitString) :
    unpackBytes (packBits l) = l ++ List.replicate ((8 - l.length % 8) % 8) false := by
  have h := unpackBytes_closeOut_putBits l (s := State.reset) rfl rfl rfl rfl
  rwa [eq_packBits h] at h

/-- The tree that is the lone leaf 256 has no byte among its leaves. -/
theorem eq_nil_of_lone_leaf {T : SymbolTree} {x : List Byte} (hT : T.leaves = 1) (heof : pseudoEof ∈ T.values)
    (hx : ∀ b ∈ x, symOfByte b ∈ T.values) : x = [] := by
  obtain ⟨v, hv⟩ := List.length_eq_one_iff.mp ((length_values T).trans hT)
  rw [hv, List.mem_singleton] at heof
  refine List.eq_nil_iff_forall_not_mem.mpr fun b hb => symOfByte_ne_pseudoEof b ?_
  have hb := hx b hb
  rw [hv, List.mem_singleton] at hb
  exact hb.trans heof.symm

/-- DECOMPRESS gives back the bytes of a stream of a valid tree, a lone leaf or not (R212, R208). -/
theorem decompress_valid_stream {s : State} {T : SymbolTree} {x : List Byte} {z : BitString} (hi : s.Inv)
    (hp : s.phase = .idle) (hhost : s.host = [.write 0x02#8]) (hpos : s.pos = 0) (hout : s.out = [])
    (hopen : s.snk = .opened) (hT : T.valid) (hx : ∀ b ∈ x, symOfByte b ∈ T.values)
    (hsrc : unpackBytes s.src = streamBits s.par.magic T x ++ z) :
    ∃ k t, runSteps k s = .next t ∧ statusByte t = 0x22#8 ∧ t.snk = .closed ∧ t.out = x := by
  have hspec := decompressReturnsTheSymbols s T x
  rcases Nat.lt_or_ge T.leaves 2 with hlt | hge
  · have hlone : T.leaves = 1 := by
      have := leaves_eq_internals_succ T
      omega
    obtain rfl := eq_nil_of_lone_leaf hlone hT.2 hx
    rw [streamBits, List.flatMap_nil, List.append_nil, List.append_assoc] at hsrc
    exact (hspec _ hi hp hhost hpos hout hopen).2 hlone hsrc
  · exact (hspec z hi hp hhost hpos hout hopen).1 hT hge hx hsrc

/-! ### From DONE to the next operation (R223, R262) -/

theorem done_of_stateField {p : Phase} : stateField p = 2#2 → p = .done := by cases p <;> decide

/-- STATE stands in bits 1:0 of STATUS, so only DONE gives 0x02 (R25, R101). -/
theorem phase_of_status_done {s : State} (h : statusByte s = 0x02#8) : s.phase = .done :=
  done_of_stateField (BitVec.extractLsb'_append_eq_right.symm.trans (congrArg (BitVec.extractLsb' 0 2) h))

/-- What the host writes and presents after a compression to have the bytes `x` decompressed (R213). -/
def backAgain (x : List Byte) : List HostEvent := [.write 0x03#8, .source x 0, .sink, .write 0x02#8]

/-- `s` cleared, with `x` as its source, a fresh sink, and DECOMPRESS to come. -/
def presented (x : List Byte) (s : State) : State :=
  { resetAll s with src := x, pos := min 0 x.length, out := [], snk := .opened, host := [.write 0x02#8] }

theorem presented_inv {s : State} (x : List Byte) (hi : s.Inv) : (presented x s).Inv := by
  obtain ⟨hpacker, hcounts, herr, hmode, hstack, -⟩ := resetAll_inv hi
  exact ⟨hpacker, hcounts, herr, hmode, hstack, Nat.min_le_right 0 _⟩

theorem step_clear {s : State} {rest : List HostEvent} (hp : s.phase = .done) (hhost : s.host = .write 0x03#8 :: rest) :
    step s = .next (resetAll { s with host := rest }) := by
  rw [step_host hhost]
  exact if_neg (by simp [hp, isBusy, stateField])

theorem runSteps_backAgain {s : State} {x : List Byte} (hp : s.phase = .done) (hhost : s.host = backAgain x) (k : Nat) :
    runSteps (k + 3) s = runSteps k (presented x s) := by
  rw [runSteps_succ (step_clear hp hhost), runSteps_succ (step_host (e := .source x 0) rfl),
    runSteps_succ (step_host (e := .sink) rfl)]
  rfl

/-- Settles O59: the stream of a valid tree, packed, is a source that spells it. -/
theorem compressThenDecompress : Obligations.CompressThenDecompress := by
  intro s hi hp hhost hpos hout hopen hlen
  obtain ⟨k, t, T, hrun, hstatus, hsnk, -, hvalid, hmem, hstream, -, -⟩ :=
    compressProducesTheStream s hi hp hhost hpos hout hopen hlen
  refine ⟨k, t, hrun, hstatus, hsnk, ?_⟩
  have hinv : t.Inv := runSteps_keeps invariantKept hi hrun
  have hpar : t.par = s.par :=
    runSteps_keeps (P := fun u => u.par = s.par) (fun _ _ hu hstep => (step_par hstep).trans hu) rfl hrun
  have hback := runSteps_backAgain (s := { t with host := backAgain t.out }) (phase_of_status_done hstatus) rfl
  have hsrc := unpackBytes_packBits (streamBits s.par.magic T s.src)
  rw [← hstream, ← hpar] at hsrc
  obtain ⟨m, u, hu, hend⟩ := decompress_valid_stream (s := presented t.out { t with host := backAgain t.out })
    (presented_inv t.out hinv) rfl rfl (Nat.zero_min _) rfl rfl hvalid
    (fun b hb => (hmem _).mpr (.inr ⟨b, hb, rfl⟩)) hsrc
  exact ⟨m + 3, u, (hback m).trans hu, hend⟩

end Sys2Proof.Proofs
end

section
/-! What the phase at hand relies on (R38, R158, R181), phase by phase, and what it means that a turn goes on along an
arrow of the transition graph to a phase that has what it relies on (R227). -/

namespace Sys2Proof.Proofs

open Sys2Proof.Machine Sys2Proof.Laws

/-! ### What a phase relies on -/

/-- The counts as FC.CLEAR and FC.COUNT leave them (R26, R143). -/
def Counted (s : State) : Prop := s.freq.get pseudoEof = 1 ∧ s.total = countSum s

/-- The tree is there and valid (R158). -/
def HasTree (s : State) : Prop := ∃ T, s.tree = some T ∧ T.valid

/-- The end marker has a code (R199). -/
def EofValid (s : State) : Prop := s.codeValid.get pseudoEof = true

/-- The nodes made and the subtrees due add up, and the stack has an Internal node per entry (R180, R35). -/
def Accounted (s : State) : Prop :=
  s.nodeCnt.val + subtreesDue s.stack = 2 * s.intCnt.val + 1 ∧ s.stack.length ≤ s.intCnt.val

/-- What a phase relies on; the first step of C_COUNT and of D_HEADER sets it up (R140, R183). -/
def Relies : Phase → State → Prop
  | .cCount, s => s.micro ≠ .start → Counted s
  | .cBuild, s => Counted s
  | .cCodes, s => HasTree s
  | .cMagic, s | .cHeader, s => HasTree s ∧ EofValid s
  | .cRewind, s | .cBody, s | .cEof, s => EofValid s
  | .dHeader, s => s.micro ≠ .start → Accounted s
  | .idle, _ | .cFlush, _ | .dMagic, _ | .dRootchk, _ | .dBody, _ | .dClose, _ | .done, _ | .error, _ => True

/-- A state of a run meets the register invariants and has what its phase relies on. -/
theorem live_iff (s : State) : s.Live ↔ s.Inv ∧ Relies s.phase s := by
  unfold State.Live CountsAgree TreeReady EofCoded HeaderAccount
  cases s.phase <;> simp [Relies, Counted, HasTree, EofValid, Accounted]

/-- The tree is in the node memory, from ROOT. -/
theorem HasTree.congr {s t : State} (h : HasTree s) (hnode : t.node = s.node) (hcnt : t.nodeCnt = s.nodeCnt)
    (hroot : t.root = s.root) : HasTree t := by
  obtain ⟨T, hT, hvalid⟩ := h
  exact ⟨T, (tree_congr hnode hcnt hroot).trans hT, hvalid⟩

theorem HasTree.goto (q : Phase) {s : State} (h : HasTree s) : HasTree (goto q s) := h.congr rfl rfl rfl

/-- No phase relies on the streams, the result register or the host. -/
theorem relies_environment {p : Phase} {s : State} {src : List Byte} {pos : Nat} {out : List Byte} {snk : Snk}
    {ret : Ret} {host : List HostEvent} (h : Relies p s) :
    Relies p { s with src := src, pos := pos, out := out, snk := snk, ret := ret, host := host } := by
  cases p
  case cCodes => exact HasTree.congr (s := s) h rfl rfl rfl
  case cMagic | cHeader =>
    obtain ⟨htree, heof⟩ := h
    exact ⟨htree.congr rfl rfl rfl, heof⟩
  all_goals exact h

/-! ### Going on along an arrow -/

/-- The outcome is a next state, in phase `p` as before or in one that an arrow leads to, with what that phase relies
on. -/
def Advances (arrow : Phase → Phase → Bool) (p : Phase) (o : Host.Outcome State Fault Refusal) : Prop :=
  ∃ t, o = .next t ∧ (t.phase = p ∨ arrow p t.phase = true) ∧ Relies t.phase t

section

variable {arrow : Phase → Phase → Bool} {p : Phase} {t : State}

theorem Advances.stays (hp : t.phase = p) (h : Relies p t) : Advances arrow p (.next t) := by
  subst hp
  exact ⟨t, rfl, .inl rfl, h⟩

theorem Advances.goes (q : Phase) (ha : arrow p q = true) (h : Relies q (goto q t)) :
    Advances arrow p (.next (goto q t)) :=
  ⟨_, rfl, .inr ha, h⟩

theorem relies_raise (e : ErrKind) (s : State) : Relies (raise e s).phase (raise e s) := by
  rw [raise_phase]
  trivial

theorem Advances.raises (e : ErrKind) (ha : arrow p .error = true) : Advances arrow p (.next (raise e t)) :=
  ⟨_, rfl, .inr (by rw [raise_phase]; exact ha), relies_raise e t⟩

end

/-! ### The work of a phase and what is relied on -/

theorem WorksIn.hasTree {p : Phase} {s t : State} (h : WorksIn p s t) (hbuild : p ≠ .cBuild) (hheader : p ≠ .dHeader)
    (hs : HasTree s) : HasTree t := by
  obtain ⟨hnodes, -⟩ := tables_eq_iff.mp h.tables
  obtain ⟨hnode, hcnt, hroot⟩ := hnodes hbuild hheader
  exact hs.congr hnode hcnt hroot

theorem WorksIn.eofValid {p : Phase} {s t : State} (h : WorksIn p s t) (hp : p ≠ .cCodes) (hs : EofValid s) :
    EofValid t := by
  obtain ⟨-, -, hcodes, -⟩ := tables_eq_iff.mp h.tables
  rw [EofValid, (hcodes hp).2]
  exact hs

/-- How a turn that may take an error advances: the operation does not stop, the phase has an arrow to ERROR, and its
normal end advances. -/
theorem after_advances {α : Type} {p : Phase} {s : State} {r : Res α} {g : α → State → State} {f : State → State}
    (hr : RunsIn p s r) (hp : s.phase = p) (herr : controllerArrow p .error = true) (hstop : ∀ e, r ≠ .stop e)
    (hg : ∀ a u, (g a u).phase = u.phase)
    (hok : ∀ a u, r = .ok a u → WorksIn p s u → Advances controllerArrow p (.next (f (g a u)))) :
    Advances controllerArrow p (after (r.toOutcome g) f) := by
  have hne : p ≠ .error := by rintro rfl; cases herr
  cases hr with
  | @ok a u h =>
    change Advances _ _ (after (.next (g a u)) f)
    rw [after_next, if_neg (by rw [hg, h.phase, hp]; exact hne)]
    exact hok a u rfl h
  | @raised e u h =>
    change Advances _ _ (after (.next (raise e u)) f)
    rw [after_next, if_pos (raise_phase e u)]
    exact .raises e herr
  | stop => exact absurd rfl (hstop _)

/-- The same for an operation that always ends normally. -/
theorem after_next_advances {p : Phase} {u : State} {f : State → State} (hu : u.phase ≠ .error)
    (h : Advances controllerArrow p (.next (f u))) : Advances controllerArrow p (after (.next u) f) := by
  rwa [after_next, if_neg hu]

end Sys2Proof.Proofs
end

section
/-! The turn of each compress phase advances (R190, R227): none stops, and each leaves what the next one relies on. -/

namespace Sys2Proof.Proofs

open Sys2Proof.Machine Sys2Proof.Laws

/-! ### C_COUNT -/

theorem countSum_eq_sum (s : State) : countSum s = ∑ y, s.freq.get y := (Fin.sum_univ_def _).symm

theorem counted_clearCounts (s : State) : Counted (clearCounts s) := by
  refine ⟨clearCounts_get s pseudoEof, ?_⟩
  rw [countSum_eq_sum]
  simp

theorem symOfByte_ne_eof (b : Byte) : symOfByte b ≠ pseudoEof := by
  revert b
  decide

/-- A byte is counted once in its own count and once in TOTAL, where neither is full (R141). -/
theorem counted_bumpCount (b : Byte) {s : State} (hs : Counted s) (hroom : s.total + 1 < 2 ^ s.par.w) :
    Counted (bumpCount (symOfByte b) s) := by
  obtain ⟨heof, htotal⟩ := hs
  have hget (y : Sym) : (bumpCount (symOfByte b) s).freq.get y = s.freq.get y + if y = symOfByte b then 1 else 0 := by
    have hle := get_le_countSum s y
    rw [bumpCount_get (by omega)]
    split <;> rfl
  refine ⟨by rw [hget, if_neg (symOfByte_ne_eof b).symm, heof], ?_⟩
  rw [bumpCount_total _ hroom, htotal, countSum_eq_sum, countSum_eq_sum, Finset.sum_congr rfl fun y _ => hget y,
    Finset.sum_add_distrib, Finset.sum_ite_eq', if_pos (Finset.mem_univ _)]

theorem countOne_ne_stop (s : State) (e : Fault) : countOne s ≠ .stop e := by
  unfold countOne
  split
  · simp
  · split <;> simp

/-- FC.COUNT keeps the counts in order, whatever the unpacker holds (R141, R235). -/
theorem counted_countOne {s u : State} {more : Bool} (hi : s.Inv) (hs : Counted s) (h : countOne s = .ok more u) :
    Counted u := by
  have hw := works_readBits 8 s
  have hframe := getBits_frame 8 s
  rw [← readBits_snd] at hframe
  unfold countOne at h
  generalize readBits 8 s = g at h hw hframe
  obtain ⟨v, t⟩ := g
  have ht : Counted t := by
    dsimp only at hframe
    rw [hframe]
    exact hs
  have hfit : t.total < 2 ^ t.par.w := by
    obtain ⟨-, hcounts, -⟩ := hw.inv hi
    exact hcounts.2.1
  cases v with
  | none =>
    obtain ⟨-, rfl⟩ := Res.ok.inj h
    exact ht
  | some v =>
    dsimp only at h
    split at h
    next => cases h
    next hfull =>
      obtain ⟨-, rfl⟩ := Res.ok.inj h
      exact counted_bumpCount _ ht (by omega)

theorem countTurn_advances {s : State} (hi : s.Inv) (hp : s.phase = .cCount) (hs : Relies .cCount s) :
    Advances controllerArrow .cCount (controllerTurn s) := by
  by_cases hstart : s.micro = .start
  · rw [controllerTurn_op (i := .fcClear) (t := s) (by simp [fetch, hp, hstart])]
    have hfollow : follow s (clearCounts s) = { clearCounts s with micro := .loop } := by simp [follow, hp, hstart]
    refine after_next_advances (u := clearCounts s) (hp.trans_ne (by decide)) ?_
    rw [hfollow]
    exact .stays hp fun _ => counted_clearCounts s
  · rw [controllerTurn_op (i := .fcCount) (t := s) (by simp [fetch, hp, hstart])]
    refine after_advances (runsIn_countOne s) hp rfl (countOne_ne_stop s) (fun _ _ => rfl) fun more u hok hw => ?_
    have hu : Counted u := counted_countOne hi (hs hstart) hok
    have hfollow (x : State) : follow s x = if x.ret = .finished then goto .cBuild x else x := by
      simp [follow, hp, hstart]
    rw [hfollow]
    cases more with
    | true => exact .stays (hw.phase.trans hp) fun _ => hu
    | false => exact .goes .cBuild rfl hu

/-! ### C_BODY -/

theorem encodeSym_ne_stop (y : Sym) (s : State) (e : Fault) : encodeSym y s ≠ .stop e := by
  unfold encodeSym
  split <;> simp

theorem bodyReadTurn_advances {s : State} (hp : s.phase = .cBody) (hs : EofValid s)
    (hmicro : ∀ v, s.micro ≠ .encode v) : Advances controllerArrow .cBody (controllerTurn s) := by
  have hw := worksIn_readBits .cBody 8 s
  have hu : EofValid (readBits 8 s).2 := hw.eofValid (by decide) hs
  have hfetch : fetch s = .op (.readbits 8) s := by
    cases hm : s.micro with
    | start | loop => simp [fetch, hp, hm]
    | encode v => exact absurd hm (hmicro v)
  have hfollow (x : State) : (x.ret = .eof → follow s x = goto .cEof x) ∧
      ∀ v, x.ret = .value v → follow s x = { x with micro := .encode (v.setWidth 8) } := by
    cases hm : s.micro with
    | start | loop => exact ⟨fun h => by simp [follow, hp, hm, h], fun v h => by simp [follow, hp, hm, h]⟩
    | encode v => exact absurd hm (hmicro v)
  obtain ⟨r, hexec, hr⟩ := exec_readbits_eight s
  rw [controllerTurn_op hfetch, hexec]
  refine after_next_advances ((hw.phase.trans hp).trans_ne (by decide)) ?_
  rcases hr with rfl | ⟨v, rfl⟩
  · rw [(hfollow _).1 rfl]
    exact .goes .cEof rfl hu
  · rw [(hfollow _).2 v rfl]
    exact .stays (hw.phase.trans hp) hu

theorem bodyTurn_advances {s : State} (hp : s.phase = .cBody) (hs : Relies .cBody s) :
    Advances controllerArrow .cBody (controllerTurn s) := by
  cases hm : s.micro with
  | start | loop => exact bodyReadTurn_advances hp hs (by simp [hm])
  | encode v =>
    rw [controllerTurn_op (i := .encSym (symOfByte v)) (t := s) (by simp [fetch, hp, hm])]
    refine after_advances (runsIn_encodeSym .cBody _ s) hp rfl (encodeSym_ne_stop _ s) (fun _ _ => rfl)
      fun _ u _ hw => ?_
    have hfollow : follow s u = { u with micro := .start } := by simp [follow, hp, hm]
    rw [hfollow]
    exact .stays (hw.phase.trans hp) (hw.eofValid (by decide) hs : EofValid u)

/-! ### The phases performed whole -/

theorem cBuild_advances {s : State} (hs : Counted s) : Advances controllerArrow .cBuild (exec .cBuild s) := by
  obtain ⟨t, T, hbuild, hT, hvalid, -⟩ := buildMakesAValidTree s (by rw [hs.1]; exact Nat.one_pos)
  rw [exec_cBuild_of_next hbuild]
  exact .goes .cCodes rfl (HasTree.goto .cCodes ⟨T, hT, hvalid⟩)

theorem cCodes_advances {s : State} (hs : HasTree s) : Advances controllerArrow .cCodes (exec .cCodes s) := by
  have ⟨T, hT, hdistinct, heof⟩ := hs
  rw [exec_cCodes_of_next (exec_ctDerive_of_tree hT)]
  obtain ⟨c, hc⟩ := exists_code_of_mem heof
  obtain ⟨hcoded, -⟩ := recordCodes_of_code [] (clearCodes s) hdistinct hc
  refine .goes .cMagic rfl ⟨hs.congr ?_ ?_ ?_, hcoded⟩ <;> rw [recordCodes_frame] <;> rfl

theorem cMagic_advances {s : State} (hs : HasTree s ∧ EofValid s) :
    Advances controllerArrow .cMagic (exec .cMagic s) := by
  have hexec : exec .cMagic s = .next (goto .cHeader (writeBits 32 s.par.magic.toNat s)) := rfl
  have hw := worksIn_writeBits .cMagic 32 s.par.magic.toNat s
  rw [hexec]
  generalize writeBits 32 s.par.magic.toNat s = t at hw ⊢
  exact .goes .cHeader rfl ⟨(hw.hasTree (by decide) (by decide) hs.1).goto .cHeader, hw.eofValid (by decide) hs.2⟩

theorem cHeader_advances {s : State} (hs : HasTree s ∧ EofValid s) :
    Advances controllerArrow .cHeader (exec .cHeader s) := by
  obtain ⟨⟨T, hT, -⟩, heof⟩ := hs
  rw [exec_cHeader_of_tree hT]
  exact .goes .cRewind rfl ((worksIn_putBits .cHeader T.ser s).eofValid (by decide) heof)

theorem cEof_advances {s : State} (hs : EofValid s) : Advances controllerArrow .cEof (exec .cEof s) := by
  rw [exec_cEof_of_valid hs]
  exact .goes .cFlush rfl trivial

theorem dRootchk_advances (s : State) : Advances controllerArrow .dRootchk (exec .dRootchk s) := by
  cases hkind : (nodeAt s s.root).kind with
  | leaf =>
    rw [exec_dRootchk_of_leaf hkind]
    exact .goes .dClose rfl trivial
  | internal =>
    rw [exec_dRootchk_of_internal hkind]
    exact .goes .dBody rfl trivial

/-- Every phase that one step performs whole advances. -/
theorem whole_advances {p : Phase} {s : State} {i : Instr} (h : wholePhase p = some i) (hs : Relies p s) :
    Advances controllerArrow p (exec i s) := by
  cases p <;> cases h
  case cBuild => exact cBuild_advances hs
  case cCodes => exact cCodes_advances hs
  case cMagic => exact cMagic_advances hs
  case cHeader => exact cHeader_advances hs
  case cRewind => exact .goes .cBody rfl hs
  case cEof => exact cEof_advances hs
  case cFlush => exact .goes .done rfl trivial
  case dRootchk => exact dRootchk_advances s
  case dClose => exact .goes .done rfl trivial

end Sys2Proof.Proofs
end

section
/-! The turn of each decompress phase advances (R205, R227): the account of the header's nodes leaves room for every
token that passes its checks (R180, R27, R35). -/

namespace Sys2Proof.Proofs

open Sys2Proof.Machine Sys2Proof.Laws

/-! ### The account of the header (R180) -/

theorem subtreesDue_left (p : NodeIx) (l : List Frame) : subtreesDue (⟨p, .left⟩ :: l) = subtreesDue l + 1 :=
  (Nat.add_assoc 1 1 _).symm.trans (Nat.add_right_comm 1 1 _)

theorem subtreesDue_right (p : NodeIx) (l : List Frame) : subtreesDue (⟨p, .right⟩ :: l) = subtreesDue l :=
  congrArg (1 + ·) (Nat.zero_add _)

/-- Of the 513 nodes that 256 Internal ones can lead to, one is still to come (R27, R180). -/
theorem Accounted.room {s : State} (h : Accounted s) : s.nodeCnt.val < 513 := by
  obtain ⟨hnodes, -⟩ := h
  have hint := s.intCnt.isLt
  unfold subtreesDue at hnodes
  omega

theorem accounted_initHeader {s : State} (h : s.stack = []) : Accounted (initHeader s) := by
  change 0 + subtreesDue s.stack = 1 ∧ s.stack.length ≤ 0
  rw [h]
  decide

theorem Accounted.fetched {s : State} (h : Accounted s) : Accounted (fetchNode s).2 := by
  rw [fetchNode_frame]
  exact h

/-- NODE.INTERNAL finds an entry of `NODE` and one of the stack, where it is not one Internal node too many. -/
theorem internal_ne_stop {s : State} (h : Accounted s) (e : Fault) : (makeInternal s).bind pushNode ≠ .stop e := by
  rcases Nat.lt_or_ge s.intCnt.val 256 with hint | hfull
  · rw [makeInternal_of_room (n := ⟨_, h.room⟩) hint rfl, bind_ok]
    have hpush : pushNode ⟨_, h.room⟩ (addNode headerInternal ⟨_, h.room⟩ (countInternal s hint)) = .ok () _ :=
      if_pos (h.2.trans_lt hint)
    rw [hpush]
    exact nofun
  · rw [makeInternal_of_full (by omega)]
    exact nofun

/-- An Internal node takes a place and opens two (R180). -/
theorem accounted_internal {s t : State} {a : Unit} (h : Accounted s) (ht : (makeInternal s).bind pushNode = .ok a t) :
    t.ret = .none ∧ Accounted t := by
  obtain ⟨n, u, hmake, hpush⟩ := bind_eq_ok.mp ht
  obtain ⟨hint, hn, rfl⟩ := makeInternal_eq_ok hmake
  obtain ⟨-, rfl⟩ := pushNode_eq_ok.mp hpush
  obtain ⟨hnodes, hstack⟩ := h
  refine ⟨rfl, ?_, Nat.succ_le_succ hstack⟩
  change n.val + 1 + subtreesDue (⟨n, .left⟩ :: s.stack) = 2 * (s.intCnt.val + 1) + 1
  rw [subtreesDue_left]
  omega

/-- NODE.LEAF finds an entry of `NODE`. -/
theorem makeLeaf_ne_stop {s : State} (h : Accounted s) (v : BitVec 9) (e : Fault) : makeLeaf v s ≠ .stop e := by
  unfold makeLeaf
  split
  · exact nofun
  · split
    · exact nofun
    · rw [newNode, dif_pos h.room]
      exact nofun

/-- The return of a subtree comes to the result of the header, or to the right subtree of an unfinished node, which
was due (R177). -/
theorem returnNode_accounted (n : NodeIx) (l : List Frame) {s : State}
    (hnodes : s.nodeCnt.val + subtreesDue l = 2 * s.intCnt.val + 2) (hstack : l.length ≤ s.intCnt.val) :
    (∃ i, (returnNode n l s).ret = .node i) ∨ (returnNode n l s).ret = .none ∧ Accounted (returnNode n l s) := by
  induction l generalizing n s with
  | nil => exact .inl ⟨n, rfl⟩
  | cons f l ih =>
    obtain ⟨p, side⟩ := f
    cases side with
    | left =>
      refine .inr ⟨rfl, ?_, hstack⟩
      change s.nodeCnt.val + subtreesDue (⟨p, .right⟩ :: l) = 2 * s.intCnt.val + 1
      rw [subtreesDue_left] at hnodes
      rw [subtreesDue_right]
      omega
    | right =>
      rw [subtreesDue_right] at hnodes
      exact ih p (s := setRight p n s) hnodes (Nat.le_of_succ_le hstack)

/-- A leaf takes a place, and its return goes to where the next one is due (R180). -/
theorem accounted_leaf {s t : State} {v : BitVec 9} {n : NodeIx} (h : Accounted s) (ht : makeLeaf v s = .ok n t) :
    (∃ i, (returnNode n t.stack t).ret = .node i) ∨
      (returnNode n t.stack t).ret = .none ∧ Accounted (returnNode n t.stack t) := by
  obtain ⟨y, -, -, hn, rfl⟩ := makeLeaf_eq_ok ht
  obtain ⟨hnodes, hstack⟩ := h
  refine returnNode_accounted n _ ?_ hstack
  change n.val + 1 + subtreesDue s.stack = 2 * s.intCnt.val + 2
  omega

/-! ### D_HEADER -/

theorem follow_header_advances {s x : State} (hp : s.phase = .dHeader) (hloop : s.micro ≠ .start)
    (hx : x.phase = .dHeader) (h : (∃ i, x.ret = .node i) ∨ x.ret = .none ∧ Accounted x) :
    Advances controllerArrow .dHeader (.next (follow s x)) := by
  rcases h with ⟨i, hret⟩ | ⟨hret, hacc⟩
  · have hfollow : follow s x = goto .dRootchk { x with root := i } := by simp [follow, hp, hloop, hret]
    rw [hfollow]
    exact .goes .dRootchk rfl trivial
  · have hfollow : follow s x = x := by simp [follow, hp, hloop, hret]
    rw [hfollow]
    exact .stays hx fun _ => hacc

/-- One header token (R92, R93, R177). -/
theorem tokenTurn_advances {s : State} (hp : s.phase = .dHeader) (hloop : s.micro ≠ .start) (hs : Accounted s) :
    Advances controllerArrow .dHeader (controllerTurn s) := by
  have hw := worksIn_fetchNode .dHeader s
  have hacc := hs.fetched
  have hfetch : fetch s = fetchHeader s := by simp [fetch, hp, hloop]
  rw [controllerTurn, hfetch, fetchHeader]
  generalize fetchNode s = g at hw hacc ⊢
  obtain ⟨_ | k, u⟩ := g
  · exact .raises _ rfl
  have hu : u.phase = .dHeader := hw.phase.trans hp
  cases k with
  | internal =>
    have hr : RunsIn .dHeader u ((makeInternal u).bind pushNode) := (runsIn_makeInternal u).bind (runsIn_pushNode _)
    refine after_advances hr hu rfl (internal_ne_stop hacc) (fun _ _ => rfl) fun _ t ht hwt => ?_
    exact follow_header_advances hp hloop (hwt.phase.trans hu) (.inr (accounted_internal hacc ht))
  | leaf v =>
    refine after_advances (runsIn_makeLeaf v u) hu rfl (makeLeaf_ne_stop hacc v)
      (fun n t => (worksIn_returnNode n t.stack t).phase) fun n t ht hwt => ?_
    exact follow_header_advances hp hloop (((worksIn_returnNode n t.stack t).phase.trans hwt.phase).trans hu)
      (accounted_leaf hacc ht)

theorem headerTurn_advances {s : State} (hi : s.Inv) (hp : s.phase = .dHeader) (hs : Relies .dHeader s) :
    Advances controllerArrow .dHeader (controllerTurn s) := by
  by_cases hstart : s.micro = .start
  · have hacc : Accounted (initHeader s) := accounted_initHeader (stack_eq_nil hi fun _ => hstart)
    have hfollow : follow s (initHeader s) = { initHeader s with micro := .loop } := by simp [follow, hp, hstart]
    rw [controllerTurn_op (i := .hdrInit) (t := s) (by simp [fetch, hp, hstart])]
    refine after_next_advances (u := initHeader s) (hp.trans_ne (by decide)) ?_
    rw [hfollow]
    exact .stays hp fun _ => hacc
  · exact tokenTurn_advances hp hstart (hs hstart)

/-! ### D_MAGIC and D_BODY -/

theorem magicTurn_advances {s : State} (hp : s.phase = .dMagic) :
    Advances controllerArrow .dMagic (controllerTurn s) := by
  have hfetch : fetch s = fetchMagic s := by simp [fetch, hp]
  have hfollow : follow s = fun u => u := by funext u; simp [follow, hp]
  rw [controllerTurn, hfetch, fetchMagic, hfollow]
  obtain ⟨_ | m, u⟩ := readBits 32 s
  · exact .raises _ rfl
  · change Advances _ _ (after (.next (checkMagic m u)) _)
    rw [after_id]
    by_cases hm : m = u.par.magic
    · rw [checkMagic_of_eq hm]
      exact .goes .dHeader rfl fun h => absurd rfl h
    · rw [checkMagic_of_ne hm]
      exact .raises _ rfl

theorem decodeStep_ne_stop (s : State) (e : Fault) : decodeStep s ≠ .stop e := by
  unfold decodeStep
  split <;> exact nofun

/-- One DEC.STEP (R209, R210). -/
theorem decodeTurn_advances {s u : State} (hp : s.phase = .dBody) (hu : u.phase = .dBody) :
    Advances controllerArrow .dBody (after (exec .decStep u) (follow s)) := by
  refine after_advances (runsIn_decodeStep u) hu rfl (decodeStep_ne_stop u) (fun _ _ => rfl) fun stop t _ hw => ?_
  have hfollow (x : State) : follow s x = if x.ret = .stop then goto .dClose x else x := by simp [follow, hp]
  rw [hfollow]
  cases stop with
  | true => exact .goes .dClose rfl trivial
  | false => exact .stays (hw.phase.trans hu) trivial

theorem decodeBodyTurn_advances {s : State} (hp : s.phase = .dBody) :
    Advances controllerArrow .dBody (controllerTurn s) := by
  by_cases hstart : s.micro = .start
  · rw [controllerTurn_op (i := .decStep) (t := { s with cur := s.root, micro := .loop })
      (by simp [fetch, hp, hstart])]
    exact decodeTurn_advances hp hp
  · rw [controllerTurn_op (i := .decStep) (t := s) (by simp [fetch, hp, hstart])]
    exact decodeTurn_advances hp hp

end Sys2Proof.Proofs
end

section
/-! Every step of a run advances (R227, R245, R273): the controller's turn along its arrows, a command along its own,
and the other actions of the host not at all, but for reset. -/

namespace Sys2Proof.Proofs

open Sys2Proof.Machine Sys2Proof.Laws

theorem controllerTurn_advances {s : State} (hi : s.Inv) (hs : Relies s.phase s) :
    Advances controllerArrow s.phase (controllerTurn s) := by
  have hrest (hf : fetch s = .rest) : Advances controllerArrow s.phase (controllerTurn s) := by
    rw [controllerTurn, hf]
    exact .stays rfl hs
  have hwhole {i : Instr} (h : wholePhase s.phase = some i) : Advances controllerArrow s.phase (controllerTurn s) :=
    controllerTurn_whole h ▸ whole_advances h hs
  cases hp : s.phase with
  | idle | done | error => exact hp ▸ hrest (by simp [fetch, hp])
  | cBuild | cCodes | cMagic | cHeader | cRewind | cEof | cFlush | dRootchk | dClose =>
    exact hp ▸ hwhole (by rw [hp]; rfl)
  | cCount => exact countTurn_advances hi hp (hp ▸ hs)
  | cBody => exact bodyTurn_advances hp (hp ▸ hs)
  | dMagic => exact magicTurn_advances hp
  | dHeader => exact headerTurn_advances hi hp (hp ▸ hs)
  | dBody => exact decodeBodyTurn_advances hp

/-! ### Commands (R220 to R225) -/

theorem exec_compress_idle {s : State} (hp : s.phase = .idle) :
    exec .compress s = .next (goto .cCount (initChannel { s with mode := 0 })) := if_pos hp

theorem exec_decompress_idle {s : State} (hp : s.phase = .idle) :
    exec .decompress s = .next (goto .dMagic (initChannel { s with mode := 1 })) := if_pos hp

theorem exec_cmdReserved_idle (c : Byte) {s : State} (hp : s.phase = .idle) :
    exec (.cmdReserved c) s = .next (raise .illegalCommand s) := if_pos hp

theorem exec_clear_busy {s : State} (hp : isBusy s.phase = true) : exec .clear s = .next s := if_pos hp

theorem exec_clear_resting {s : State} (hp : isBusy s.phase = false) : exec .clear s = .next (resetAll s) :=
  if_neg (by rw [hp]; decide)

/-- Outside IDLE every command but CLEAR is ignored (R221, R222, R224). -/
theorem exec_command_ignored {c : Byte} {s : State} (hp : s.phase ≠ .idle) (hc : decodeCmd c ≠ .clear) :
    exec (decodeCmd c) s = .next s := by
  rcases decodeCmd_cases c with h | h | h | h | h
  · rw [h]; rfl
  · rw [h]; exact if_neg hp
  · rw [h]; exact if_neg hp
  · exact absurd h hc
  · rw [h]; exact if_neg hp

theorem isBusy_eq_false_iff {p : Phase} : isBusy p = false ↔ p = .idle ∨ p = .done ∨ p = .error := by
  cases p <;> decide

/-- COMPRESS goes from IDLE to C_COUNT, at its start (R221). -/
theorem compress_advances {s : State} (hs : Relies s.phase s) :
    Advances (commandArrow 0x01#8) s.phase (exec .compress s) := by
  by_cases hp : s.phase = .idle
  · rw [exec_compress_idle hp, hp]
    exact .goes .cCount rfl fun h => absurd rfl h
  · exact exec_command_ignored (c := 0x01#8) hp (by decide) ▸ .stays rfl hs

/-- DECOMPRESS goes from IDLE to D_MAGIC (R222). -/
theorem decompress_advances {s : State} (hs : Relies s.phase s) :
    Advances (commandArrow 0x02#8) s.phase (exec .decompress s) := by
  by_cases hp : s.phase = .idle
  · rw [exec_decompress_idle hp, hp]
    exact .goes .dMagic rfl trivial
  · exact exec_command_ignored (c := 0x02#8) hp (by decide) ▸ .stays rfl hs

/-- CLEAR goes to IDLE from DONE and ERROR, and stays there (R223). -/
theorem clear_advances {s : State} (hs : Relies s.phase s) :
    Advances (commandArrow 0x03#8) s.phase (exec .clear s) := by
  cases hbusy : isBusy s.phase with
  | true =>
    rw [exec_clear_busy hbusy]
    exact .stays rfl hs
  | false =>
    rw [exec_clear_resting hbusy]
    refine ⟨resetAll s, rfl, ?_, trivial⟩
    rcases isBusy_eq_false_iff.mp hbusy with hp | hp | hp <;> rw [hp]
    · exact .inl rfl
    · exact .inr rfl
    · exact .inr rfl

/-- A reserved byte goes from IDLE to ERROR (R224). -/
theorem cmdReserved_advances {c : Byte} {s : State} (hc : isReservedCmd c = true) (hs : Relies s.phase s) :
    Advances (commandArrow c) s.phase (exec (.cmdReserved c) s) := by
  by_cases hp : s.phase = .idle
  · rw [exec_cmdReserved_idle c hp, hp]
    exact .raises _ hc
  · rw [← decodeCmd_reserved hc, exec_command_ignored hp (by rw [decodeCmd_reserved hc]; exact nofun)]
    exact .stays rfl hs

theorem command_advances (c : Byte) {s : State} (hs : Relies s.phase s) :
    Advances (commandArrow c) s.phase (exec (decodeCmd c) s) := by
  by_cases hc : isReservedCmd c = true
  · rw [decodeCmd_reserved hc]
    exact cmdReserved_advances hc hs
  · rcases unreserved_cases hc with rfl | rfl | rfl | rfl
    · exact .stays rfl hs
    · exact compress_advances hs
    · exact decompress_advances hs
    · exact clear_advances hs

/-! ### Every step -/

/-- The arrows open to a step, by the host's next action (R227). -/
def openArrow : List HostEvent → Phase → Phase → Bool
  | [] | .wait :: _ => controllerArrow
  | .write c :: _ => commandArrow c
  | .reset :: _ => fun _ q => q == .idle
  | .readStatus :: _ | .source _ _ :: _ | .sink :: _ | .stall :: _ => fun _ _ => false

theorem step_advances {s : State} (h : s.Live) : Advances (openArrow s.host) s.phase (step s) := by
  obtain ⟨hi, hs⟩ := (live_iff s).mp h
  cases hhost : s.host with
  | nil => exact step_quiet hhost ▸ controllerTurn_advances hi hs
  | cons e rest =>
    have hs' : Relies s.phase { s with host := rest } := relies_environment hs
    rw [step_host hhost]
    cases e with
    | write c => exact command_advances c (s := { s with host := rest }) hs'
    | reset => exact ⟨resetAll { s with host := rest }, rfl, .inr rfl, trivial⟩
    | wait => exact controllerTurn_advances (s := { s with host := rest }) hi hs'
    | stall => exact .stays rfl hs'
    | readStatus | source bytes pos | sink => exact .stays rfl (relies_environment (s := s) hs)

/-- Settles O17: a step of a run advances, and every step keeps the register invariants. -/
theorem stepNeverStops : Obligations.StepNeverStops := by
  intro s h
  obtain ⟨t, ht, -, hs⟩ := step_advances h
  exact ⟨t, ht, (live_iff t).mpr ⟨invariantKept s t h.1 ht, hs⟩⟩

/-- Settles O18: the arrows open to a step are the controller's, or those of the host's next action. -/
theorem phaseFollowsTheGraph : Obligations.PhaseFollowsTheGraph := by
  intro s t h ht
  obtain ⟨u, hu, harrow, -⟩ := step_advances h
  obtain rfl := Host.Outcome.next.inj (hu.symm.trans ht)
  refine harrow.imp_right fun harrow => ?_
  cases hhost : s.host with
  | nil => exact .inl (by rwa [hhost] at harrow)
  | cons e rest =>
    rw [hhost] at harrow
    cases e with
    | wait => exact .inl harrow
    | write c => exact .inr (.inl ⟨c, rest, rfl, harrow⟩)
    | reset => exact .inr (.inr ⟨rest, rfl, eq_of_beq harrow⟩)
    | readStatus | source bytes pos | sink | stall => cases harrow

end Sys2Proof.Proofs
end

section
/-! The commands by the state they meet (R220 to R225), what CLEAR leaves, and the status view (R25, R101, R226). -/

namespace Sys2Proof.Proofs

open Sys2Proof.Machine Sys2Proof.Laws

/-- While BUSY no command has an effect (R225). -/
theorem exec_command_busy (c : Byte) {s : State} (hbusy : isBusy s.phase = true) :
    exec (decodeCmd c) s = .next s := by
  by_cases hc : decodeCmd c = .clear
  · rw [hc]
    exact exec_clear_busy hbusy
  · exact exec_command_ignored (ne_of_isBusy hbusy rfl) hc

/-- Settles O7: by the state the command meets. -/
theorem commandsByState : Obligations.CommandsByState := by
  intro s c
  refine ⟨rfl, exec_command_busy c, fun hbusy rest hhost => ?_, fun hc => ?_⟩
  · rw [step_host hhost]
    exact exec_command_busy c (s := { s with host := rest }) hbusy
  · have hdecode := decodeCmd_reserved hc
    refine ⟨hdecode, fun hp => ?_, fun hp => ?_⟩
    · rw [exec_cmdReserved_idle c hp, raise_idle _ s hp]
      rfl
    · exact hdecode ▸ exec_command_ignored hp (by rw [hdecode]; exact nofun)

/-- Settles O8: from IDLE the command sets MODE, empties the channel and goes to its first phase. -/
theorem operationStart : Obligations.OperationStart := by
  intro s
  refine ⟨exec_compress_idle, exec_decompress_idle, fun hp => ⟨?_, ?_⟩⟩
  · exact exec_command_ignored (c := 0x01#8) hp (by decide)
  · exact exec_command_ignored (c := 0x02#8) hp (by decide)

theorem statusByte_resetAll (s : State) : statusByte (resetAll s) = 0x00#8 :=
  (by decide : (0#2 ++ 0#1 ++ 0#3 ++ 0#2 : Byte) = 0x00#8)

/-- Settles O9: outside BUSY CLEAR is the reset. -/
theorem clearReturnsToIdle : Obligations.ClearReturnsToIdle := by
  intro s
  refine ⟨fun hp => ⟨resetAll s, exec_clear_resting (isBusy_eq_false_iff.mpr hp), ?_⟩, exec_clear_busy⟩
  exact ⟨rfl, rfl, rfl, rfl, rfl, rfl, rfl, rfl, statusByte_resetAll s, rfl, rfl, rfl, rfl, rfl, rfl, rfl⟩

/-! ### The status view -/

/-- The fields of a status byte are what it is made of (R101). -/
theorem status_fields (m : BitVec 1) (e : BitVec 3) (f : BitVec 2) :
    (0#2 ++ m ++ e ++ f : Byte).extractLsb' 2 3 = e ∧ (0#2 ++ m ++ e ++ f : Byte).extractLsb' 5 1 = m ∧
      (0#2 ++ m ++ e ++ f : Byte).extractLsb' 6 2 = 0#2 ∧ (0#2 ++ m ++ e ++ f : Byte).extractLsb' 0 2 = f := by
  revert m e f
  decide

theorem stateField_eq (p : Phase) :
    stateField p = if p = .idle then 0#2 else if p = .done then 2#2 else if p = .error then 3#2 else 1#2 := by
  cases p <;> rfl

/-- The status bytes that R101 lists. -/
def listedBytes : List Byte :=
  [0x00#8, 0x01#8, 0x21#8, 0x02#8, 0x22#8, 0x27#8, 0x2B#8, 0x2F#8, 0x33#8, 0x17#8, 0x1B#8, 0x1F#8]

/-- In ERROR the code decides the mode (R230). -/
theorem error_byte_listed {m : BitVec 1} {e : BitVec 3} (he : e ≠ 0) (hm : if e.toNat ≤ 4 then m = 1 else m = 0) :
    (0#2 ++ m ++ e ++ 3#2 : Byte) ∈ listedBytes := by
  revert m e
  decide

/-- In DONE the mode is that of the operation that ended (R23). -/
theorem done_byte_listed (m : BitVec 1) : (0#2 ++ m ++ 0#3 ++ 2#2 : Byte) ∈ listedBytes := by
  revert m
  decide

/-- The bytes of R101 by the phase: ERR is 0 outside ERROR, and MODE goes with the phase (R22, R23). -/
theorem statusByte_listed {s : State} (hi : s.Inv) : statusByte s ∈ listedBytes := by
  have hmode := modeAgrees hi
  unfold ModeAgrees at hmode
  by_cases hp : s.phase = .error
  · have herr : s.err ≠ 0 := fun h => ((inv_iff s).mp hi).2.err.mp h hp
    rw [hp] at hmode
    rw [statusByte, hp]
    exact error_byte_listed herr hmode
  · rw [statusByte, err_eq_zero hi hp]
    cases hs : s.phase <;> rw [hs] at hmode
    case error => exact absurd hs hp
    case done => exact done_byte_listed s.mode
    all_goals
      dsimp only at hmode
      rw [hmode]
      decide

/-- Settles O10: the byte by its fields, and the listed ones by the phase and the invariants on ERR and MODE. -/
theorem statusReadReturnsTheView : Obligations.StatusReadReturnsTheView := by
  intro s
  obtain ⟨herr, hmode, hzero, hstate⟩ := status_fields s.mode s.err (stateField s.phase)
  exact ⟨rfl, herr, hmode, hzero, hstate.trans (stateField_eq s.phase), statusByte_listed⟩

end Sys2Proof.Proofs
end

section
/-! Error entry and hardware reset (R236, R260), and what ERROR ignores until CLEAR (R242, R243). -/

namespace Sys2Proof.Proofs

open Sys2Proof.Machine Sys2Proof.Laws

/-- Settles O11: RAISE is error entry, by whether an operation is running. -/
theorem errorEntry : Obligations.ErrorEntry := fun s e =>
  ⟨fun hp => congrArg Host.Outcome.next (raise_working e s hp),
    fun hp => congrArg Host.Outcome.next (raise_idle e s hp)⟩

/-- Settles O13: reset is `resetAll`, the power-on state under the host's streams, whatever the phase; the machine after
reset is a power-on state too. -/
theorem resetValues : Obligations.ResetValues := by
  refine ⟨fun s => ⟨resetAll s, rfl, ?_⟩, ?_⟩
  · exact ⟨rfl, rfl, rfl, rfl, rfl, rfl, rfl, rfl, statusByte_resetAll s, rfl, rfl, rfl, rfl, rfl⟩
  · exact ⟨rfl, rfl, rfl, rfl, rfl, rfl, rfl, rfl, statusByte_resetAll State.reset⟩

/-- Of the command bytes only 0x03 is CLEAR (R100). -/
theorem eq_of_decodeCmd_clear {c : Byte} (h : decodeCmd c = .clear) : c = 0x03#8 := by
  by_cases hc : isReservedCmd c = true
  · rw [decodeCmd_reserved hc] at h
    cases h
  · rcases unreserved_cases hc with rfl | rfl | rfl | rfl
    · exact absurd h (by decide)
    · exact absurd h (by decide)
    · exact absurd h (by decide)
    · rfl

theorem controllerTurn_error {s : State} (hp : s.phase = .error) : controllerTurn s = .next s := by
  have hfetch : fetch s = .rest := by simp [fetch, hp]
  rw [controllerTurn, hfetch]

/-- Settles O12: by the host's action; the controller rests, and a command other than CLEAR is acted on in IDLE only. -/
theorem errorIsSticky : Obligations.ErrorIsSticky := by
  intro s rest hp
  refine ⟨fun h => step_rest h (.inr (.inr hp)), fun c hc h => ?_, ?_, fun bytes pos h => ?_, step_host, step_host⟩
  · rw [step_host h]
    have hne : s.phase ≠ .idle := hp.trans_ne (by decide)
    exact exec_command_ignored (s := { s with host := rest }) hne (mt eq_of_decodeCmd_clear hc)
  · rintro (h | h) <;> rw [step_host h]
    · exact controllerTurn_error (s := { s with host := rest }) hp
    · rfl
  · exact ⟨_, step_host h⟩

end Sys2Proof.Proofs
end

section
/-! Where the errors come from (R230, R236): an error is taken by the operation of a turn, or while its bits are
read, never by the control transfer after it; so the operations of a phase fix the codes it can record. -/

namespace Sys2Proof.Proofs

open Sys2Proof.Machine Sys2Proof.Laws

/-! ### The operation takes the error -/

/-- No control transfer goes to ERROR (R227). -/
theorem follow_ne_error (s : State) {u : State} (hu : u.phase ≠ .error) : (follow s u).phase ≠ .error := by
  unfold follow
  repeat' split
  all_goals simp [goto, hu]

theorem eq_next_of_after_error {o : Host.Outcome State Fault Refusal} {s t : State}
    (h : after o (follow s) = .next t) (ht : t.phase = .error) : o = .next t := by
  obtain ⟨u, rfl, hu⟩ := after_eq_next.mp h
  split at hu
  · rw [hu]
  next hne => exact absurd (hu ▸ ht) (follow_ne_error s hne)

/-- An operation that always ends normally leads to no error. -/
theorem after_next_ne_error {s t u : State} (hu : u.phase ≠ .error) (h : after (.next u) (follow s) = .next t) :
    t.phase ≠ .error := fun ht =>
  hu (Host.Outcome.next.inj (eq_next_of_after_error h ht) ▸ ht)

theorem Keeps.err_of_raised {α : Type} {e : ErrKind} {s x : State} {r : Res α} (hk : Keeps e s r)
    (h : r = .raised x) : x.err = errCode e := by
  subst h
  cases hk with | raised _ => exact raise_err e _

/-- A turn whose operation can take no error but `e` records the code of `e` when it enters ERROR. -/
theorem after_errorFrom {α : Type} {p : Phase} (e : ErrKind) {s t u : State} {r : Res α} {g : α → State → State}
    (h : after (r.toOutcome g) (follow s) = .next t) (ht : t.phase = .error) (hr : RunsIn p u r) (hu : u.phase = p)
    (hg : ∀ a x, (g a x).phase = x.phase) (he : ∀ x, r = .raised x → x.err = errCode e)
    (hcode : errorFrom p (errCode e) = true) : errorFrom p t.err = true := by
  have hne : p ≠ .error := by rintro rfl; cases hcode
  rcases toOutcome_eq_next.mp (eq_next_of_after_error h ht) with ⟨a, x, rfl, rfl⟩ | hraised
  · cases hr with | ok hw =>
    exact absurd (((hg a x).trans (hw.phase.trans hu)).symm.trans ht) hne
  · rw [he t hraised]
    exact hcode

/-! ### Phase by phase (R230) -/

theorem countTurn_errorFrom {s t : State} (hp : s.phase = .cCount) (h : controllerTurn s = .next t)
    (ht : t.phase = .error) : errorFrom .cCount t.err = true := by
  by_cases hstart : s.micro = .start
  · rw [controllerTurn_op (i := .fcClear) (t := s) (by simp [fetch, hp, hstart])] at h
    exact absurd ht (after_next_ne_error (u := clearCounts s) (hp.trans_ne (by decide)) h)
  · rw [controllerTurn_op (i := .fcCount) (t := s) (by simp [fetch, hp, hstart])] at h
    exact after_errorFrom .countOverflow h ht (runsIn_countOne s) hp (fun _ _ => rfl)
      (fun _ => (keeps_countOne s).err_of_raised) rfl

theorem bodyTurn_errorFrom {s t : State} (hp : s.phase = .cBody) (h : controllerTurn s = .next t)
    (ht : t.phase = .error) : errorFrom .cBody t.err = true := by
  have hread (hfetch : fetch s = .op (.readbits 8) s) : errorFrom .cBody t.err = true := by
    obtain ⟨r, hexec, -⟩ := exec_readbits_eight s
    rw [controllerTurn_op hfetch, hexec] at h
    have hphase : (readBits 8 s).2.phase = .cBody := (works_readBits 8 s).phase.trans hp
    exact absurd ht (after_next_ne_error (u := { (readBits 8 s).2 with ret := r }) (hphase.trans_ne (by decide)) h)
  cases hmicro : s.micro with
  | start | loop => exact hread (by simp [fetch, hp, hmicro])
  | encode v =>
    rw [controllerTurn_op (i := .encSym (symOfByte v)) (t := s) (by simp [fetch, hp, hmicro])] at h
    exact after_errorFrom .noCode h ht (runsIn_encodeSym .cBody _ s) hp (fun _ _ => rfl)
      (fun _ => (keeps_encodeSym _ s).err_of_raised) rfl

theorem magicTurn_errorFrom {s t : State} (hp : s.phase = .dMagic) (h : controllerTurn s = .next t)
    (ht : t.phase = .error) : errorFrom .dMagic t.err = true := by
  have hmismatch (u : State) : errorFrom .dMagic (raise .formatMismatch u).err = true := by rw [raise_err]; rfl
  have hfetch : fetch s = fetchMagic s := by simp [fetch, hp]
  rw [controllerTurn, hfetch, fetchMagic] at h
  generalize readBits 32 s = g at h
  obtain ⟨_ | m, u⟩ := g
  · exact Host.Outcome.next.inj h ▸ hmismatch u
  · obtain rfl : checkMagic m u = t := Host.Outcome.next.inj (eq_next_of_after_error h ht)
    by_cases hm : m = u.par.magic
    · rw [checkMagic_of_eq hm] at ht
      cases ht
    · rw [checkMagic_of_ne hm]
      exact hmismatch u

/-- The push that ends NODE.INTERNAL takes no error (R177, R180). -/
theorem internal_err_of_raised {u x : State} (h : (makeInternal u).bind pushNode = .raised x) :
    x.err = errCode .malformedHeader := by
  rcases bind_eq_raised.mp h with hmake | ⟨_, _, -, hpush⟩
  · exact (keeps_makeInternal u).err_of_raised hmake
  · exact absurd hpush pushNode_ne_raised

theorem headerTurn_errorFrom {s t : State} (hp : s.phase = .dHeader) (h : controllerTurn s = .next t)
    (ht : t.phase = .error) : errorFrom .dHeader t.err = true := by
  by_cases hstart : s.micro = .start
  · rw [controllerTurn_op (i := .hdrInit) (t := s) (by simp [fetch, hp, hstart])] at h
    exact absurd ht (after_next_ne_error (u := initHeader s) (hp.trans_ne (by decide)) h)
  · have hw := worksIn_fetchNode .dHeader s
    have hfetch : fetch s = fetchHeader s := by simp [fetch, hp, hstart]
    rw [controllerTurn, hfetch, fetchHeader] at h
    generalize fetchNode s = g at h hw
    obtain ⟨_ | k, u⟩ := g
    · obtain rfl := Host.Outcome.next.inj h
      rw [raise_err]
      rfl
    have hu : u.phase = .dHeader := hw.phase.trans hp
    cases k with
    | internal =>
      exact after_errorFrom .malformedHeader h ht ((runsIn_makeInternal u).bind (runsIn_pushNode .dHeader)) hu
        (fun _ _ => rfl) (fun _ => internal_err_of_raised) rfl
    | leaf v =>
      exact after_errorFrom .malformedHeader h ht (runsIn_makeLeaf v u) hu
        (fun n x => (worksIn_returnNode n x.stack x).phase) (fun _ => (keeps_makeLeaf v u).err_of_raised) rfl

theorem decodeBodyTurn_errorFrom {s t : State} (hp : s.phase = .dBody) (h : controllerTurn s = .next t)
    (ht : t.phase = .error) : errorFrom .dBody t.err = true := by
  have hstep {u : State} (hu : u.phase = .dBody) (h : after (exec .decStep u) (follow s) = .next t) :
      errorFrom .dBody t.err = true :=
    after_errorFrom .truncatedStream h ht (runsIn_decodeStep u) hu (fun _ _ => rfl)
      (fun _ => (keeps_decodeStep u).err_of_raised) rfl
  by_cases hstart : s.micro = .start
  · rw [controllerTurn_op (i := .decStep) (t := { s with cur := s.root, micro := .loop })
      (by simp [fetch, hp, hstart])] at h
    exact hstep (u := { s with cur := s.root, micro := .loop }) hp h
  · rw [controllerTurn_op (i := .decStep) (t := s) (by simp [fetch, hp, hstart])] at h
    exact hstep hp h

/-! ### Every step -/

/-- The controller goes to ERROR only along an arrow of the graph, and MODE is no phase's to write (R227, R23). -/
theorem controllerTurn_enters_error {s t : State} (hi : s.Inv) (hrelies : Relies s.phase s)
    (h : controllerTurn s = .next t) (hs : s.phase ≠ .error) (ht : t.phase = .error) :
    errorFrom s.phase t.err = true ∧ t.mode = s.mode := by
  refine ⟨?_, congrArg Tables.mode (controllerTurn_turnIn h).tables⟩
  obtain ⟨u, hu, harrow, -⟩ := controllerTurn_advances hi hrelies
  obtain rfl := Host.Outcome.next.inj (h.symm.trans hu)
  have herror : controllerArrow s.phase .error = true := ht ▸ harrow.resolve_left (ht.trans_ne hs.symm)
  cases hp : s.phase <;> rw [hp] at herror
  case cCount => exact countTurn_errorFrom hp h ht
  case cBody => exact bodyTurn_errorFrom hp h ht
  case dMagic => exact magicTurn_errorFrom hp h ht
  case dHeader => exact headerTurn_errorFrom hp h ht
  case dBody => exact decodeBodyTurn_errorFrom hp h ht
  all_goals cases herror

/-- A command goes to ERROR from IDLE only, as a reserved byte (R224, R227). -/
theorem of_commandArrow_error {c : Byte} {p : Phase} (h : commandArrow c p .error = true) :
    p = .idle ∧ isReservedCmd c = true := by
  cases p
  case idle => exact ⟨rfl, h⟩
  all_goals cases h

theorem command_enters_error {s t : State} (c : Byte) (hrelies : Relies s.phase s)
    (h : exec (decodeCmd c) s = .next t) (hs : s.phase ≠ .error) (ht : t.phase = .error) :
    errorFrom s.phase t.err = true ∧ t.mode = s.mode := by
  obtain ⟨u, hu, harrow, -⟩ := command_advances c hrelies
  obtain rfl := Host.Outcome.next.inj (h.symm.trans hu)
  obtain ⟨hp, hc⟩ := of_commandArrow_error (ht ▸ harrow.resolve_left (ht.trans_ne hs.symm))
  rw [decodeCmd_reserved hc, exec_cmdReserved_idle c hp] at h
  obtain rfl := Host.Outcome.next.inj h
  rw [hp, raise_idle _ s hp]
  exact ⟨rfl, rfl⟩

/-- Settles O19: ERROR is entered by a turn of the controller or by a command; reset goes to IDLE, and the host's other
actions leave the phase alone. -/
theorem errorsComeFromTheirPhases : Obligations.ErrorsComeFromTheirPhases := by
  intro s t hl h hs ht
  obtain ⟨hi, hrelies⟩ := (live_iff s).mp hl
  cases hhost : s.host with
  | nil => exact controllerTurn_enters_error hi hrelies (step_quiet hhost ▸ h) hs ht
  | cons e rest =>
    have hturn : hostTurn e { s with host := rest } = .next t := step_host hhost ▸ h
    have hrelies' : Relies s.phase { s with host := rest } := relies_environment hrelies
    cases e with
    | write c => exact command_enters_error (s := { s with host := rest }) c hrelies' hturn hs ht
    | wait => exact controllerTurn_enters_error (s := { s with host := rest }) hi hrelies' hturn hs ht
    | reset =>
      obtain rfl := Host.Outcome.next.inj hturn
      cases ht
    | readStatus | source bytes pos | sink | stall =>
      obtain rfl := Host.Outcome.next.inj hturn
      exact absurd ht hs

end Sys2Proof.Proofs
end
